-- ==== Sys2Proof/Word.lean ====
section
/-! DEFINITION. The constants of 00_scope.md's first table (R8), and the carriers: the width of every port and Snapshot
field (10_state.md R23, R33). The five width parameters of its second table are configuration (R9) and stand here, each
once, because types are made from them; the seven others are the record `Params` (Config.lean). The widths are the spec's
own decisions (D2, D3, D4, D10, D13, D17); DESIGN CHOICE, safe, log entry 11. -/

namespace Sys2Proof

/-! ### Constants: the parameters that the source fixes (00_scope.md R8) -/

/-- `BUF_LEN`: bytes in a register block. -/
abbrev bufLen : Nat := 70

/-- `NREG`: 16-bit registers a block images. -/
abbrev nreg : Nat := 35

/-- `REG_BASE`: Modbus address of the first imaged register. -/
abbrev regBase : Nat := 0x100

/-- `FAULT_LEN`: bytes in the fault-bitmap codec's operand. -/
abbrev faultLen : Nat := 4

/-- `FAULT_LO`: the lowest bit of the flag word that names faults. -/
abbrev faultLo : Nat := 16

/-- `FAULT_HI`: the highest bit of the flag word that names faults. -/
abbrev faultHi : Nat := 31

/-- `NFAULT`: entries in the bit-to-name table, one fewer than the bits of its range. -/
abbrev nfault : Nat := 15

/-- `NCSTATE`: named charging states, codes 0 to 6. -/
abbrev ncstate : Nat := 7

/-- `BRIGHT_MAX`: largest brightness the encoder accepts. -/
abbrev brightMax : Nat := 100

/-- `DEC_DIGITS`: fractional decimal digits of every decimal field. -/
abbrev decDigits : Nat := 2

/-- What a decimal field counts in one unit: hundredths, by `DEC_DIGITS` (00_scope.md R14). -/
abbrev decUnit : Nat := 10 ^ decDigits

/-! ### Configuration: the width parameters (00_scope.md R9) -/

/-- `OP_W`: width of the operation select (D2). -/
abbrev opW : Nat := 3

/-- `ERR_W`: width of the error output (D13). -/
abbrev errW : Nat := 3

/-- `LEN_W`: width of the byte count that accompanies a byte operand (D3). -/
abbrev lenW : Nat := 8

/-- `CW`: width of the carrier of a decimal field (D4). -/
abbrev cw : Nat := 40

/-- `LID_W`: width of a label identifier (D10). -/
abbrev lidW : Nat := 8

/-- The largest byte count that `in_len` can say. -/
abbrev maxLen : Nat := 2 ^ lenW - 1

/-! ### Carriers -/

/-- One byte of a byte operand. -/
abbrev Byte := BitVec 8

/-- The operation select (30_encoding.md R80). -/
abbrev OpCode := BitVec opW

/-- The error output (60_exceptions.md R271). -/
abbrev ErrCode := BitVec errW

/-- The byte count of a byte operand (10_state.md R33). -/
abbrev ByteCount := BitVec lenW

/-- A decimal field: an unsigned count of hundredths (00_scope.md R14). -/
abbrev Hundredths := BitVec cw

/-- A label identifier (10_state.md R28). -/
abbrev LabelId := BitVec lidW

/-- A set of labels: one bit for each identifier, bit `L` set when the label with identifier `L` is in the set
(10_state.md R29). -/
abbrev LabelSet := BitVec (2 ^ lidW)

/-- The 70 byte lanes of a byte port, in offset order (10_state.md R33). -/
abbrev Lanes := Vector Byte bufLen

end Sys2Proof
end

