-- ==== Sys2Proof/Syntax.lean ====
section
/-! DEFINITION. The operations (30_encoding.md R80), the Snapshot (10_state.md R23), the error kinds (60_exceptions.md
R270), the charging state as a sum (10_state.md R37), the four scale classes (30_encoding.md R88), and an evaluation
as the spec writes one, `MNEMONIC operand` (30_encoding.md R99). -/

namespace Sys2Proof

/-- The eight operations of the block, one per row of spec/opcode_table.json. An operation's operands stand on the
input ports, so a constructor carries no field. -/
inductive Instr where
  /-- DECODE, `op` = 000 -/
  | decode
  /-- ENCODE, `op` = 001 -/
  | encode
  /-- FLT_DEC, `op` = 010 -/
  | fltDec
  /-- FLT_ENC, `op` = 011 -/
  | fltEnc
  /-- STS_DEC, `op` = 100 -/
  | stsDec
  /-- STS_ENC, `op` = 101 -/
  | stsEnc
  /-- CST_DEC, `op` = 110 -/
  | cstDec
  /-- CST_ENC, `op` = 111 -/
  | cstEnc
  deriving DecidableEq, Repr

/-- The Snapshot: 32 fields, each in its carrier (10_state.md R23). The names are the spec's identifiers in camel
case; a decimal field counts hundredths; a temperature is read as two's complement (`BitVec.toInt`). -/
structure Snapshot where
  soc                        : BitVec 16
  batteryVoltage             : Hundredths
  chargingCurrent            : Hundredths
  controllerTemperature      : BitVec 8
  batteryTemperature         : BitVec 8
  loadVoltage                : Hundredths
  loadCurrent                : Hundredths
  loadPower                  : Hundredths
  panelVoltage               : Hundredths
  panelCurrent               : Hundredths
  chargingPower              : Hundredths
  minBatteryVoltageToday     : Hundredths
  maxBatteryVoltageToday     : Hundredths
  maxChargingCurrentToday    : Hundredths
  maxDischargingCurrentToday : Hundredths
  maxChargingPowerToday      : Hundredths
  maxDischargingPowerToday   : Hundredths
  chargingAmpHoursToday      : Hundredths
  dischargingAmpHoursToday   : Hundredths
  powerGeneratedToday        : Hundredths
  powerConsumedToday         : Hundredths
  totalOperatingDays         : BitVec 16
  totalOverDischarges        : BitVec 16
  totalFullCharges           : BitVec 16
  totalChargingAmpHours      : Hundredths
  totalDischargingAmpHours   : Hundredths
  cumulativePowerGenerated   : Hundredths
  cumulativePowerConsumed    : Hundredths
  loadOn                     : Bool
  brightness                 : BitVec 8
  chargingState              : Byte
  faults                     : LabelSet
  deriving DecidableEq, Repr, Inhabited

/-- The four error kinds of the block; a closed set (60_exceptions.md R270). -/
inductive ErrKind where
  | lengthError
  | rangeError
  | faultNameError
  | invariantError
  deriving DecidableEq, Repr

/-- A charging state as a sum: one of seven modes, or an unrecognized code from 7 on, which keeps the code (10_state.md
R37: `Mode(m), 0 <= m <= 6 | Unrecognized(u), 7 <= u <= 255`). -/
inductive ChargingState where
  | mode (m : Fin ncstate)
  | unrecognized (u : Byte) (outOfRange : ncstate ≤ u.toNat)
  deriving DecidableEq, Repr

/-- The four scale factors of a decimal field (10_state.md R26, 30_encoding.md R88). -/
inductive Scale where
  /-- DEC ×0.1 -/
  | tenth
  /-- DEC ×0.01 -/
  | hundredth
  /-- DEC ×1, "unscaled" -/
  | unit
  /-- DEC ÷10000 -/
  | tenThousandth
  deriving DecidableEq, Repr

/-- One evaluation, an operation with its operand (30_encoding.md R99). A byte sequence is a list of any length. -/
inductive Evaluation where
  | decode (bytes : List Byte)
  | encode (snap : Snapshot)
  | fltDec (bytes : List Byte)
  | fltEnc (faults : LabelSet)
  | stsDec (status : Byte)
  | stsEnc (loadOn : Bool) (brightness : BitVec 8)
  | cstDec (code : Byte)
  | cstEnc (lid : LabelId)
  deriving DecidableEq, Repr

/-- The operation an evaluation asks for. -/
def Evaluation.instr : Evaluation → Instr
  | .decode _   => .decode
  | .encode _   => .encode
  | .fltDec _   => .fltDec
  | .fltEnc _   => .fltEnc
  | .stsDec _   => .stsDec
  | .stsEnc _ _ => .stsEnc
  | .cstDec _   => .cstDec
  | .cstEnc _   => .cstEnc

end Sys2Proof
end

