-- ==== Sys2Proof/Config.lean ====
section
/-! DEFINITION. The parameters the source leaves open (00_scope.md R9, second parameter table): the seven that are no width,
as a record that the operations take as an argument (the five widths are in Word.lean), and the free values. The values this model takes for the parameters are
`Sys2Proof.Machine.params` (Machine/Parameters.lean). -/

namespace Sys2Proof

/-- `DEC_ROUND` and `ENC_ROUND`: rounding to an integer, a tie away from zero, or truncation (D6, D7). -/
inductive Rounding where
  | halfAwayFromZero
  | truncate
  deriving DecidableEq, Repr

/-- `ENC_OVERFLOW_POLICY`: what ENCODE does with a Snapshot that is not representable (41_encoder.md R176, D8). -/
inductive OverflowPolicy where
  | refuse
  | rangeError
  | wrap
  deriving DecidableEq, Repr

/-- `ERR_PRIORITY`: which of RangeError and FaultNameError ENCODE reports when both apply (41_encoder.md R212, D14). -/
inductive ErrPriority where
  | rangeFirst
  | nameFirst
  deriving DecidableEq, Repr

/-- `UNKNOWN_POLICY`: what a charging-state code from 7 on decodes to (44_name_tables.md R253, D9). The spec takes the
first; the second is what one version of the software did ("a negative sentinel represented as "unknown""). The other
version passed the raw byte through, which keeps what the first keeps; its label the spec does not give. -/
inductive UnknownPolicy where
  /-- `Unrecognized(code)`, with the code. -/
  | unrecognizedCode
  /-- One state for all such codes, carried as the byte `u`. -/
  | sentinel (u : Byte) (outOfRange : ncstate ≤ u.toNat)
  deriving DecidableEq, Repr

/-- The parameters of the block that are configuration and no width (00_scope.md R9). -/
structure Params where
  /-- `DEC_ROUND` -/
  decRound        : Rounding
  /-- `ENC_ROUND` -/
  encRound        : Rounding
  /-- `ENC_OVERFLOW_POLICY` -/
  encOverflow     : OverflowPolicy
  /-- `UNKNOWN_POLICY` -/
  unknownPolicy   : UnknownPolicy
  /-- `FAULT_UNNAMED_BIT`, the one bit of the fault range without a table entry -/
  faultUnnamedBit : Nat
  /-- It "ranges over 16..31" (44_name_tables.md R251), so that the table has `NFAULT` entries whichever it is. -/
  unnamedInRange  : faultLo ≤ faultUnnamedBit ∧ faultUnnamedBit ≤ faultHi
  /-- `LABEL_TEXT`: each label identifier that is in a table, with its text (44_name_tables.md R250, R251) -/
  labelTexts      : List (LabelId × String)
  /-- `ERR_PRIORITY` -/
  errPriority     : ErrPriority
  deriving DecidableEq, Repr

/-- The free value on the lanes of `out_bytes` that evaluation number `n` leaves unspecified (10_state.md R34,
60_exceptions.md R276). DESIGN CHOICE, safe: nothing constrains it; log entry 4. -/
opaque Config.freeBytes : Nat → Lanes

/-- The free value on the fields of `out_snap` that evaluation number `n` leaves unspecified. Log entry 4. -/
opaque Config.freeSnap : Nat → Snapshot

/-- The free value on `out_lid` where evaluation number `n` leaves it unspecified. Log entry 4. -/
opaque Config.freeLid : Nat → LabelId

end Sys2Proof
end

