-- ==== Sys2Proof/WellFormed.lean ====
section
/-! DEFINITION. What may be presented to the block. Every operation code is legal (30_encoding.md R97), so `Instr` has
no ill-formed term; an evaluation is ill-formed only when its byte sequence is longer than `in_len` can say
(10_state.md R35: "A byte operand longer than 255 bytes cannot be presented at all"). -/

namespace Sys2Proof

/-- Every one of the eight operations is well-formed: `op` has no reserved code (30_encoding.md R97). -/
def Instr.wellFormed : Instr → Bool
  | .decode => true
  | .encode => true
  | .fltDec => true
  | .fltEnc => true
  | .stsDec => true
  | .stsEnc => true
  | .cstDec => true
  | .cstEnc => true

/-- An evaluation can be presented on the ports: its byte sequence has a length that `in_len` can say. -/
def Evaluation.wellFormed : Evaluation → Bool
  | .decode bytes => bytes.length ≤ maxLen
  | .fltDec bytes => bytes.length ≤ maxLen
  | .encode _     => true
  | .fltEnc _     => true
  | .stsDec _     => true
  | .stsEnc _ _   => true
  | .cstDec _     => true
  | .cstEnc _     => true

end Sys2Proof
end

