-- ==== Sys2Proof/Decode.lean ====
section
/-! DEFINITION. The operation select (30_encoding.md R80, opcode_table.json): the code read as an operation, and the
encoder. The port `op` has three wires; where a code is held in a byte it stands in bits 2..0, and bits 7..3 are not
examined (the table's mask is 0x7). DESIGN CHOICE, safe, log entry 1. -/

namespace Sys2Proof

/-- Why a byte sequence selects no operation. -/
inductive DecodeError where
  /-- There is no byte to take the select from. -/
  | noOperation
  deriving DecidableEq, Repr

/-- The operation a code selects; all eight codes are used (30_encoding.md R80, R97). -/
def decodeOp (op : OpCode) : Instr :=
  match op.toNat with
  | 0 => .decode
  | 1 => .encode
  | 2 => .fltDec
  | 3 => .fltEnc
  | 4 => .stsDec
  | 5 => .stsEnc
  | 6 => .cstDec
  | _ => .cstEnc

/-- The operation at the front of a byte sequence, with the bytes that follow it. -/
def decode : List Byte → Except DecodeError (Instr × List Byte)
  | []        => .error .noOperation
  | b :: rest => .ok (decodeOp (b.extractLsb' 0 opW), rest)

/-- The code of an operation (30_encoding.md R80). -/
def encodeOp : Instr → OpCode
  | .decode => 0b000
  | .encode => 0b001
  | .fltDec => 0b010
  | .fltEnc => 0b011
  | .stsDec => 0b100
  | .stsEnc => 0b101
  | .cstDec => 0b110
  | .cstEnc => 0b111

/-- The words of an operation: one byte, the code in bits 2..0 and zeros above. -/
def encode (i : Instr) : List Byte := [(encodeOp i).setWidth 8]

/-- The operation the decoder reads from an opcode-table word `w` of `nbits` bits; every bit above `nbits` is 0. -/
def decodeTableWord (nbits w : Nat) : Option Instr :=
  match decode [BitVec.ofNat 8 (w % 2 ^ nbits)] with
  | .ok (i, _) => some i
  | .error _   => none

end Sys2Proof
end

