-- ==== Sys2Proof/Machine/State.lean ====
section
/-! DEFINITION. The state: the level on every port of the block (10_state.md R33), and the model's own count of
evaluations. The block retains nothing (10_state.md R20); an input port keeps the level the host drives. -/

namespace Sys2Proof.Machine

/-- The block has no fault that stops it: its four error kinds are results, driven on `err` (00_scope.md R17,
60_exceptions.md R276), so no constructor stands here and no step can answer a fault. Safe; log entry 14. -/
inductive Fault where
  deriving DecidableEq, Repr

/-- Why a step has no meaning. -/
inductive Refusal where
  /-- Raised by an arm of `exec` whose operation has no meaning yet. Safe. No arm raises it. -/
  | notModelled (mnemonic : String)
  /-- Raised by ENCODE, and by it alone, on a Snapshot that is not representable: "a model refuses the evaluation"
  (41_encoder.md R176). Safe: nothing can be proved of such an evaluation. Log entry 5. -/
  | encodeNotRepresentable
  deriving DecidableEq, Repr

structure State where
  /-- `op`: the operation select -/
  op       : OpCode
  /-- `in_len`: number of bytes the host holds for the byte operand -/
  inLen    : ByteCount
  /-- `in_bytes[0..69]` -/
  inBytes  : Lanes
  /-- `in_snap` -/
  inSnap   : Snapshot
  /-- `in_lid` -/
  inLid    : LabelId
  /-- `err`: 0, or the code of the error kind (60_exceptions.md R271) -/
  err      : ErrCode
  /-- `out_bytes[0..69]` -/
  outBytes : Lanes
  /-- `out_snap` -/
  outSnap  : Snapshot
  /-- `out_lid` -/
  outLid   : LabelId
  /-- The model's own: evaluations made, which selects the free values. DESIGN CHOICE, safe, log entry 4. -/
  evals    : Nat
  deriving DecidableEq, Repr

/-- A Snapshot whose every field is zero, false or empty. -/
def zeroSnapshot : Snapshot where
  soc := 0
  batteryVoltage := 0
  chargingCurrent := 0
  controllerTemperature := 0
  batteryTemperature := 0
  loadVoltage := 0
  loadCurrent := 0
  loadPower := 0
  panelVoltage := 0
  panelCurrent := 0
  chargingPower := 0
  minBatteryVoltageToday := 0
  maxBatteryVoltageToday := 0
  maxChargingCurrentToday := 0
  maxDischargingCurrentToday := 0
  maxChargingPowerToday := 0
  maxDischargingPowerToday := 0
  chargingAmpHoursToday := 0
  dischargingAmpHoursToday := 0
  powerGeneratedToday := 0
  powerConsumedToday := 0
  totalOperatingDays := 0
  totalOverDischarges := 0
  totalFullCharges := 0
  totalChargingAmpHours := 0
  totalDischargingAmpHours := 0
  cumulativePowerGenerated := 0
  cumulativePowerConsumed := 0
  loadOn := false
  brightness := 0
  chargingState := 0
  faults := 0

/-- The ports before the host has driven any. The block has no reset (70_reset_and_hazards.md R300). The input levels
and the data outputs are a DESIGN CHOICE, unsafe; `err` = 1 is DEDUCED: the outputs are the function of the inputs from
the first instant, and these inputs are DECODE of an empty byte sequence. Log entry 3. -/
def State.reset : State where
  op := 0
  inLen := 0
  inBytes := Vector.replicate bufLen 0
  inSnap := zeroSnapshot
  inLid := 0
  err := 1
  outBytes := Vector.replicate bufLen 0
  outSnap := zeroSnapshot
  outLid := 0
  evals := 0

end Sys2Proof.Machine
end

