-- ==== Sys2Proof/Machine/Parameters.lean ====
section
/-! DEFINITION. The values this model takes for the parameters of Config.lean: those of 00_scope.md's second table.
Each is the spec's own decision, not the source's; DESIGN CHOICE, log entries 5 to 10. -/

namespace Sys2Proof.Machine

/-- The charging-state table's labels, `unknown` among them (44_name_tables.md R250). The source gives the texts of 0x00,
0x06 and 0x07; the others are PRESUMED, from general knowledge of the device, unsafe; log entry 10. -/
def chargingStateTexts : List (LabelId × String) :=
  [(0x00, "charging deactivated"),
   (0x01, "charging activated"),
   (0x02, "mppt charging mode"),
   (0x03, "equalizing charging mode"),
   (0x04, "boost charging mode"),
   (0x05, "floating charging mode"),
   (0x06, "current limiting overpower"),
   (0x07, "unknown")]

/-- The fault table's labels (44_name_tables.md R251). PRESUMED, all of them; log entry 10. -/
def faultLabelTexts : List (LabelId × String) :=
  [(0x10, "battery over-discharge"),
   (0x11, "battery over-voltage"),
   (0x12, "battery under-voltage warning"),
   (0x13, "load short circuit"),
   (0x14, "load overpower or load over-current"),
   (0x15, "controller temperature too high"),
   (0x16, "ambient temperature too high"),
   (0x17, "photovoltaic input overpower"),
   (0x18, "photovoltaic input side short circuit"),
   (0x19, "photovoltaic input side over-voltage"),
   (0x1A, "solar panel counter-current"),
   (0x1B, "solar panel working point over-voltage"),
   (0x1C, "solar panel reversely connected"),
   (0x1D, "anti-reverse mos short circuit"),
   (0x1E, "charge mos short circuit")]

/-- The parameter values of 00_scope.md R9's table. `faultUnnamedBit` = 31 is PRESUMED: the spec takes it from general
knowledge of the device (44_name_tables.md R251). -/
def params : Params where
  decRound := .halfAwayFromZero
  encRound := .halfAwayFromZero
  encOverflow := .refuse
  unknownPolicy := .unrecognizedCode
  faultUnnamedBit := 31
  unnamedInRange := by decide
  labelTexts := chargingStateTexts ++ faultLabelTexts
  errPriority := .rangeFirst

end Sys2Proof.Machine
end

