-- ==== Sys2Proof/Machine/Operands.lean ====
section
/-! DEFINITION. Operands: bytes to numbers and back (20_memory.md), the byte operand on the ports (10_state.md R33), and
the scaling of a decimal field in both directions (30_encoding.md section 6). Arithmetic is on unbounded integers and
narrows where a value is stored (00_scope.md R13). -/

namespace Sys2Proof.Machine

/-- `B[i]` as a number; 0 past the end, where no operation reads (00_scope.md R0). -/
def byteAt (B : List Byte) (i : Nat) : Nat := (B.getD i 0).toNat

/-- `MemRead(addr, n)`: the unsigned big-endian value of `n` bytes (20_memory.md R50, R52). -/
def memRead (B : List Byte) (addr : Nat) : Nat → Nat
  | 0     => 0
  | n + 1 => memRead B addr n * 256 + byteAt B (addr + n)

/-- Image word `x[k]`, the register at Modbus address `regBase + k` (10_state.md R21). -/
def imageWord (B : List Byte) (k : Nat) : Nat := memRead B (2 * k) 2

/-- The Modbus address that byte offset `o` of a register block images (20_memory.md R59). -/
def modbusAddr (o : Nat) : Nat := regBase + o / 2

/-- The `n` bytes of `v`, most significant first: byte `k` is `(v div 256^(n-1-k)) mod 256` (20_memory.md R53). -/
def bigEndian : Nat → Nat → List Byte
  | 0, _     => []
  | n + 1, v => BitVec.ofNat 8 (v / 256 ^ n) :: bigEndian n v

/-- `MemWrite(addr, n, v)` on the output buffer (20_memory.md R53). -/
def memWrite (out : List Byte) (addr n v : Nat) : List Byte :=
  out.take addr ++ bigEndian n v ++ out.drop (addr + n)

/-- `sext_8(v)`: the two's-complement reading of a byte (00_scope.md R0). -/
def sext8 (v : Nat) : Int := if v < 128 then v else (v : Int) - 256

/-- `tc_8(t)`: the byte that holds signed `t` (00_scope.md R0). -/
def tc8 (t : Int) : Nat := (t % 256).toNat

/-- `n/d` rounded to an integer; half away from zero is `rhaz(n, d)` of 00_scope.md R0. -/
def roundDiv : Rounding → Nat → Nat → Nat
  | .halfAwayFromZero, n, d => (n + d / 2) / d
  | .truncate, n, d         => n / d

/-- The multiplier and divisor `(m, d)` of a scale: the factor of the field's register times `10 ^ DEC_DIGITS`, as a
fraction (30_encoding.md R88). -/
def scaleFactor : Scale → Nat × Nat
  | .tenth         => (decUnit / 10, 1)
  | .hundredth     => (decUnit / 100, 1)
  | .unit          => (decUnit, 1)
  | .tenThousandth => (1, 10000 / decUnit)

/-- Decode scaling: `c = rhaz(raw * m, d)` (30_encoding.md R88). -/
def hundredthsOfRaw (p : Params) (sc : Scale) (raw : Nat) : Nat :=
  roundDiv p.decRound (raw * (scaleFactor sc).1) (scaleFactor sc).2

/-- Encode scaling: `raw = rhaz(c * d, m)` (30_encoding.md R89). -/
def rawOfHundredths (p : Params) (sc : Scale) (c : Nat) : Nat :=
  roundDiv p.encRound (c * (scaleFactor sc).2) (scaleFactor sc).1

/-- The INT16 transform of the two bytes at `o` (40_decoder.md R123). -/
def int16At (B : List Byte) (o : Nat) : BitVec 16 := BitVec.ofNat 16 (memRead B o 2)

/-- The INT8S transform of the byte at `o` (40_decoder.md R124), in its signed 8-bit carrier. -/
def int8sAt (B : List Byte) (o : Nat) : BitVec 8 := BitVec.ofInt 8 (sext8 (memRead B o 1))

/-- A DEC transform of the `n` bytes at `o` (40_decoder.md R125 to R128), in its 40-bit carrier. -/
def decAt (p : Params) (B : List Byte) (sc : Scale) (o n : Nat) : Hundredths :=
  BitVec.ofNat cw (hundredthsOfRaw p sc (memRead B o n))

/-- The byte operand of DECODE and FLT_DEC: the first `in_len` lanes. A length above 70 keeps its length; the bytes past
lane 69, which the port cannot present, stand as zeros and no operation's result depends on them, since every such
operand is a LengthError (10_state.md R35). DEDUCED, safe, log entry 15. -/
def byteOperand (s : State) : List Byte :=
  (s.inBytes.toList ++ List.replicate (maxLen - bufLen) 0).take s.inLen.toNat

/-- The one-byte operand of STS_DEC and CST_DEC, lane 0; it has no length (43_status_byte.md R240). -/
def oneByteOperand (s : State) : Byte := s.inBytes[0]

/-- The lanes with `bs` driven from lane 0 on; the lanes past `bs` keep `rest`. -/
def driveLanes (bs : List Byte) (rest : Lanes) : Lanes :=
  Vector.mk (List.toArray ((bs ++ rest.toList.drop bs.length).take bufLen)) (by simp; omega)

/-- The level on `in_len` for a byte sequence: its length, or the largest count for a longer one, which is then the
LengthError that 10_state.md R35 asks of a model that takes a list of any length. DEDUCED, safe, log entry 15. -/
def lengthPort (bytes : List Byte) : ByteCount := BitVec.ofNat lenW (min bytes.length maxLen)

/-- The host presents an evaluation: the select and the operands on the ports it uses, the other input ports as they
were (10_state.md R33, 70_reset_and_hazards.md R303). -/
def State.present (e : Evaluation) (s : State) : State :=
  let s := { s with op := encodeOp e.instr }
  match e with
  | .decode bytes => { s with inLen := lengthPort bytes, inBytes := driveLanes bytes s.inBytes }
  | .encode snap => { s with inSnap := snap }
  | .fltDec bytes => { s with inLen := lengthPort bytes, inBytes := driveLanes bytes s.inBytes }
  | .fltEnc faults => { s with inSnap := { s.inSnap with faults := faults } }
  | .stsDec status => { s with inBytes := driveLanes [status] s.inBytes }
  | .stsEnc on bright => { s with inSnap := { s.inSnap with loadOn := on, brightness := bright } }
  | .cstDec code => { s with inBytes := driveLanes [code] s.inBytes }
  | .cstEnc lid => { s with inLid := lid }

/-- The operation on the select port. There is no fetch from a memory and no program counter (10_state.md R30). -/
def fetchInstr (s : State) : Instr := decodeOp s.op

/-- The select as the byte the decoder reads. -/
def fetchBytes (s : State) : List Byte := [s.op.setWidth 8]

end Sys2Proof.Machine
end

