-- ==== Sys2Proof/Machine/Flags.lean ====
section
/-! DEFINITION. The one condition output, `err` (10_state.md R31, 60_exceptions.md R271). -/

namespace Sys2Proof.Machine

/-- The code of an error kind on `err` (60_exceptions.md R271). DESIGN CHOICE of the spec (D13), log entry 11. -/
def errCode : ErrKind → ErrCode
  | .lengthError    => 1
  | .rangeError     => 2
  | .faultNameError => 3
  | .invariantError => 4

/-- `err` when an operation succeeds. -/
def errNone : ErrCode := 0

end Sys2Proof.Machine
end

