-- ==== Sys2Proof/Machine/Ops.lean ====
section
/-! DEFINITION. How an evaluation drives the output ports: an error, a success, and which data outputs are left
unspecified (10_state.md R34, 60_exceptions.md R276). The input ports are never written. -/

namespace Sys2Proof.Machine

/-- An evaluation begins: no data output is specified yet. What no operation drives afterwards is a free value, a fresh
one for every evaluation. Log entry 4. -/
def State.release (s : State) : State :=
  { s with
    outBytes := Config.freeBytes s.evals
    outSnap := Config.freeSnap s.evals
    outLid := Config.freeLid s.evals
    evals := s.evals + 1 }

/-- `raise K`: the ONE way an operation ends in an error. `err` is driven with the code of `K` and every data output is
unspecified; nothing is saved and control goes nowhere (60_exceptions.md R276). There is no return operation, because
there is nothing to return from (60_exceptions.md R280). -/
def State.raise (k : ErrKind) (s : State) : State :=
  { s.release with err := errCode k }

/-- A success: `err` is 0 (60_exceptions.md R271); the operation drives its own outputs afterwards. -/
def State.succeed (s : State) : State :=
  { s.release with err := errNone }

/-- An operation's result on the ports: the error, or the value driven by `drive` (60_exceptions.md R270). -/
def settle {α : Type} (drive : α → State → State) (r : Except ErrKind α) (s : State) : State :=
  match r with
  | .error k => s.raise k
  | .ok v    => drive v s.succeed

/-- The bytes of a result on `out_bytes` from lane 0 on. -/
def driveBytes (bs : List Byte) (s : State) : State :=
  { s with outBytes := driveLanes bs s.outBytes }

/-- A whole Snapshot on `out_snap` and a label on `out_lid` (DECODE). -/
def driveSnapshot (v : Snapshot × LabelId) (s : State) : State :=
  { s with outSnap := v.1, outLid := v.2 }

/-- A label set on `out_snap.faults` (FLT_DEC). -/
def driveFaults (F : LabelSet) (s : State) : State :=
  { s with outSnap := { s.outSnap with faults := F } }

/-- `out_snap.load_on` and `out_snap.brightness` (STS_DEC). -/
def driveStatus (v : Bool × BitVec 8) (s : State) : State :=
  { s with outSnap := { s.outSnap with loadOn := v.1, brightness := v.2 } }

/-- `out_snap.charging_state` in its carrier and a label on `out_lid` (CST_DEC). -/
def driveChargingState (v : Byte × LabelId) (s : State) : State :=
  { s with outSnap := { s.outSnap with chargingState := v.1 }, outLid := v.2 }

end Sys2Proof.Machine
end

