-- ==== Sys2Proof/Machine/ChargingState.lean ====
section
/-! DEFINITION. The name tables and the operations CST_DEC and CST_ENC (44_name_tables.md). -/

namespace Sys2Proof.Machine

/-- The state that the byte carries: a mode for 0..6, else `Unrecognized(code)` (10_state.md R37). -/
def chargingStateOfCode (code : Byte) : ChargingState :=
  if h : code.toNat < ncstate then .mode ⟨code.toNat, h⟩ else .unrecognized code (Nat.le_of_not_lt h)

/-- The one-byte carrier of a charging state: the code itself (10_state.md R37). -/
def codeOfChargingState : ChargingState → Byte
  | .mode m           => BitVec.ofNat 8 m.val
  | .unrecognized u _ => u

/-- The state a code decodes to: a mode for 0..6, and from 7 on what `UNKNOWN_POLICY` says (44_name_tables.md R253). The
policy is the spec's decision D9; DESIGN CHOICE, log entry 9. -/
def decodedState (p : Params) (code : Byte) : ChargingState :=
  match p.unknownPolicy with
  | .unrecognizedCode => chargingStateOfCode code
  | .sentinel u h     =>
      match chargingStateOfCode code with
      | .mode m           => .mode m
      | .unrecognized _ _ => .unrecognized u h

/-- The label `unknown`, shared by every unrecognized state (44_name_tables.md R250). -/
def unknownLid : LabelId := 0x07

/-- `CST_LABEL`: the label of a charging state (44_name_tables.md R252). -/
def labelOfChargingState : ChargingState → LabelId
  | .mode m           => BitVec.ofNat lidW m.val
  | .unrecognized _ _ => unknownLid

/-- The text of a label identifier, by the parameter `LABEL_TEXT`; none for an identifier in no table (44_name_tables.md
R250, R251). No operation reads it. -/
def labelText (p : Params) (lid : LabelId) : Option String := p.labelTexts.lookup lid

/-- CST_DEC's function: the state and its label; never an error (44_name_tables.md R253). -/
def cstDec (p : Params) (code : Byte) : Except ErrKind (ChargingState × LabelId) :=
  .ok (decodedState p code, labelOfChargingState (decodedState p code))

/-- CST_ENC's function: the code of one of the `NCSTATE` mode labels, which is the label's identifier in a byte, else an
error (44_name_tables.md R254). The kind is the spec's decision D16; DESIGN CHOICE, log entry 12. -/
def cstEnc (lid : LabelId) : Except ErrKind Byte :=
  if lid.toNat < ncstate then .ok (BitVec.ofNat 8 lid.toNat) else .error .faultNameError

/-- CST_DEC (44_name_tables.md R253). -/
def execCstDec (s : State) : Host.Outcome State Fault Refusal :=
  .next (settle (fun v => driveChargingState (codeOfChargingState v.1, v.2)) (cstDec params (oneByteOperand s)) s)

/-- CST_ENC (44_name_tables.md R254). -/
def execCstEnc (s : State) : Host.Outcome State Fault Refusal :=
  .next (settle (fun code => driveBytes [code]) (cstEnc s.inLid) s)

end Sys2Proof.Machine
end

