-- ==== Sys2Proof/Machine/FaultWord.lean ====
section
/-! DEFINITION. The fault bitmap codec: FLT_DEC and FLT_ENC (42_fault_bitmap.md). The label identifier of the fault at
bit `i` is `i` (44_name_tables.md R251), so one mask is the table, used in both directions (R255). -/

namespace Sys2Proof.Machine

/-- The bits of the flag word that name faults, `FAULT_LO` to `FAULT_HI` (30_encoding.md R84). -/
def faultRange : BitVec 32 := BitVec.ofNat 32 (2 ^ (faultHi + 1) - 2 ^ faultLo)

/-- The bits of the flag word that have a table entry: that range but for the unnamed bit (30_encoding.md R84). -/
def faultMask (p : Params) : BitVec 32 :=
  faultRange &&& ~~~(1#32 <<< p.faultUnnamedBit)

/-- The set of labels that a flag word names; every other bit is ignored (42_fault_bitmap.md R220, R221). -/
def faultsOfWord (p : Params) (w : BitVec 32) : LabelSet :=
  (w &&& faultMask p).setWidth (2 ^ lidW)

/-- FLT_DEC's function (42_fault_bitmap.md R220, R222): the length is checked before any read. -/
def fltDec (p : Params) (W : List Byte) : Except ErrKind LabelSet :=
  if W.length ≠ faultLen then .error .lengthError
  else .ok (faultsOfWord p (BitVec.ofNat 32 (memRead W 0 faultLen)))

/-- Every label of the set is in the fault table (42_fault_bitmap.md R224). -/
def allFaultLabels (p : Params) (F : LabelSet) : Bool :=
  F &&& ~~~((faultMask p).setWidth (2 ^ lidW)) == 0

/-- FLT_ENC's accumulator: FaultNameError on any label that is not in the fault table, else the OR of the labels' bits
(42_fault_bitmap.md R223, R224). -/
def fltEncWord (p : Params) (F : LabelSet) : Except ErrKind (BitVec 32) :=
  if allFaultLabels p F then .ok (F.setWidth 32) else .error .faultNameError

/-- FLT_ENC's function: the accumulator as 4 big-endian bytes (42_fault_bitmap.md R223). -/
def fltEnc (p : Params) (F : LabelSet) : Except ErrKind (List Byte) :=
  match fltEncWord p F with
  | .error k => .error k
  | .ok w    => .ok (memWrite [] 0 faultLen w.toNat)

/-- FLT_DEC (42_fault_bitmap.md R220). -/
def execFltDec (s : State) : Host.Outcome State Fault Refusal :=
  .next (settle driveFaults (fltDec params (byteOperand s)) s)

/-- FLT_ENC (42_fault_bitmap.md R223). -/
def execFltEnc (s : State) : Host.Outcome State Fault Refusal :=
  .next (settle driveBytes (fltEnc params s.inSnap.faults) s)

end Sys2Proof.Machine
end

