-- ==== Sys2Proof/Machine/StatusByte.lean ====
section
/-! DEFINITION. The status byte codec: STS_DEC and STS_ENC (43_status_byte.md). -/

namespace Sys2Proof.Machine

/-- STS_DEC's function: bit 7 and bits 6..0; the brightness is not checked (43_status_byte.md R240, R241). -/
def stsDec (b : Byte) : Except ErrKind (Bool × BitVec 8) :=
  .ok (b.getLsbD 7, b &&& 0x7F)

/-- STS_ENC's function: RangeError unless the brightness is in 0..100 (43_status_byte.md R242). -/
def stsEnc (loadOn : Bool) (brightness : BitVec 8) : Except ErrKind Byte :=
  if brightness.toNat > brightMax then .error .rangeError
  else .ok ((if loadOn then 0x80 else 0) ||| brightness)

/-- STS_DEC (43_status_byte.md R240). -/
def execStsDec (s : State) : Host.Outcome State Fault Refusal :=
  .next (settle driveStatus (stsDec (oneByteOperand s)) s)

/-- STS_ENC (43_status_byte.md R242). -/
def execStsEnc (s : State) : Host.Outcome State Fault Refusal :=
  .next (settle (fun b => driveBytes [b]) (stsEnc s.inSnap.loadOn s.inSnap.brightness) s)

end Sys2Proof.Machine
end

