-- ==== Sys2Proof/Machine/RegisterBlock.lean ====
section
/-! DEFINITION. The register decoder and encoder: DECODE (40_decoder.md) and ENCODE (41_encoder.md), by the layout of
30_encoding.md R83. -/

namespace Sys2Proof.Machine

/-- The fields of a 70-byte block (40_decoder.md R120), given the results of the three codecs it contains (R81). -/
def snapshotOfBlock (p : Params) (B : List Byte) (status : Bool × BitVec 8) (code : Byte) (F : LabelSet) : Snapshot where
  soc                        := int16At B 0
  batteryVoltage             := decAt p B .tenth 2 2
  chargingCurrent            := decAt p B .hundredth 4 2
  controllerTemperature      := int8sAt B 6
  batteryTemperature         := int8sAt B 7
  loadVoltage                := decAt p B .tenth 8 2
  loadCurrent                := decAt p B .hundredth 10 2
  loadPower                  := decAt p B .unit 12 2
  panelVoltage               := decAt p B .tenth 14 2
  panelCurrent               := decAt p B .hundredth 16 2
  chargingPower              := decAt p B .unit 18 2
  -- bytes 20 and 21 are not read (40_decoder.md R140)
  minBatteryVoltageToday     := decAt p B .tenth 22 2
  maxBatteryVoltageToday     := decAt p B .tenth 24 2
  maxChargingCurrentToday    := decAt p B .hundredth 26 2
  maxDischargingCurrentToday := decAt p B .hundredth 28 2
  maxChargingPowerToday      := decAt p B .unit 30 2
  maxDischargingPowerToday   := decAt p B .unit 32 2
  chargingAmpHoursToday      := decAt p B .unit 34 2
  dischargingAmpHoursToday   := decAt p B .unit 36 2
  powerGeneratedToday        := decAt p B .tenThousandth 38 2
  powerConsumedToday         := decAt p B .tenThousandth 40 2
  totalOperatingDays         := int16At B 42
  totalOverDischarges        := int16At B 44
  totalFullCharges           := int16At B 46
  totalChargingAmpHours      := decAt p B .unit 48 4
  totalDischargingAmpHours   := decAt p B .unit 52 4
  cumulativePowerGenerated   := decAt p B .tenThousandth 56 4
  cumulativePowerConsumed    := decAt p B .tenThousandth 60 4
  loadOn                     := status.1
  brightness                 := status.2
  chargingState              := code
  faults                     := F

/-- DECODE's function: the length is checked before every read, and nothing else can fail (40_decoder.md R120 to R122). -/
def decodeBlock (p : Params) (B : List Byte) : Except ErrKind (Snapshot × LabelId) :=
  if B.length ≠ bufLen then .error .lengthError
  else do
    let status ← stsDec (BitVec.ofNat 8 (memRead B 64 1))
    let (state, lid) ← cstDec p (BitVec.ofNat 8 (memRead B 65 1))
    let F ← fltDec p ((B.drop 66).take faultLen)
    return (snapshotOfBlock p B status (codeOfChargingState state) F, lid)

/-- One `MemWrite` of ENCODE: `value` into the `width` bytes at `addr`; `scaled` marks the DEC fields, which alone are
subject to `Representable` (41_encoder.md R175). -/
structure FieldWrite where
  addr   : Nat
  width  : Nat
  value  : Nat
  scaled : Bool
  deriving DecidableEq, Repr

/-- The write of a field whose carrier is no wider than its register (41_encoder.md R172, R173). -/
def plainWrite (addr width value : Nat) : FieldWrite := ⟨addr, width, value, false⟩

/-- The write of a DEC field (41_encoder.md R174, R177 to R179). -/
def decWrite (p : Params) (sc : Scale) (addr width : Nat) (c : Hundredths) : FieldWrite :=
  ⟨addr, width, rawOfHundredths p sc c.toNat, true⟩

/-- The writes of ENCODE in the order of 41_encoder.md R170, given the bytes of the two codecs it contains (R81). -/
def blockWrites (p : Params) (s : Snapshot) (status : Byte) (flags : BitVec 32) : List FieldWrite :=
  [ plainWrite 0 2 s.soc.toNat,
    decWrite p .tenth 2 2 s.batteryVoltage,
    decWrite p .hundredth 4 2 s.chargingCurrent,
    plainWrite 6 1 (tc8 s.controllerTemperature.toInt),
    plainWrite 7 1 (tc8 s.batteryTemperature.toInt),
    decWrite p .tenth 8 2 s.loadVoltage,
    decWrite p .hundredth 10 2 s.loadCurrent,
    decWrite p .unit 12 2 s.loadPower ] ++
  [ decWrite p .tenth 14 2 s.panelVoltage,
    decWrite p .hundredth 16 2 s.panelCurrent,
    decWrite p .unit 18 2 s.chargingPower,
    plainWrite 20 2 0,
    decWrite p .tenth 22 2 s.minBatteryVoltageToday,
    decWrite p .tenth 24 2 s.maxBatteryVoltageToday,
    decWrite p .hundredth 26 2 s.maxChargingCurrentToday,
    decWrite p .hundredth 28 2 s.maxDischargingCurrentToday ] ++
  [ decWrite p .unit 30 2 s.maxChargingPowerToday,
    decWrite p .unit 32 2 s.maxDischargingPowerToday,
    decWrite p .unit 34 2 s.chargingAmpHoursToday,
    decWrite p .unit 36 2 s.dischargingAmpHoursToday,
    decWrite p .tenThousandth 38 2 s.powerGeneratedToday,
    decWrite p .tenThousandth 40 2 s.powerConsumedToday,
    plainWrite 42 2 s.totalOperatingDays.toNat,
    plainWrite 44 2 s.totalOverDischarges.toNat,
    plainWrite 46 2 s.totalFullCharges.toNat ] ++
  [ decWrite p .unit 48 4 s.totalChargingAmpHours,
    decWrite p .unit 52 4 s.totalDischargingAmpHours,
    decWrite p .tenThousandth 56 4 s.cumulativePowerGenerated,
    decWrite p .tenThousandth 60 4 s.cumulativePowerConsumed,
    plainWrite 64 1 status.toNat,
    plainWrite 65 1 s.chargingState.toNat,
    plainWrite 66 4 flags.toNat ]

/-- `Representable(s)`: every DEC field encodes to a raw value that fits its register (41_encoder.md R175). -/
def representable (p : Params) (s : Snapshot) : Bool :=
  (blockWrites p s 0 0).all fun w => !w.scaled || decide (w.value < 256 ^ w.width)

/-- The output buffer after the writes, from an empty one. -/
def assemble (writes : List FieldWrite) : List Byte :=
  writes.foldl (fun out w => memWrite out w.addr w.width w.value) []

/-- The status byte and the flag word, or the first error in the order of `ERR_PRIORITY` (41_encoder.md R209, R211,
R212). -/
def statusAndFlags (p : Params) (s : Snapshot) : Except ErrKind (Byte × BitVec 32) :=
  match p.errPriority with
  | .rangeFirst => do
      let status ← stsEnc s.loadOn s.brightness
      let flags ← fltEncWord p s.faults
      return (status, flags)
  | .nameFirst => do
      let flags ← fltEncWord p s.faults
      let status ← stsEnc s.loadOn s.brightness
      return (status, flags)

/-- ENCODE's function on a Snapshot that fits (41_encoder.md R170); the last check is the defensive one, which never
fails (R213). A value that does not fit, which reaches a write under the policy `wrap` alone, is stored modulo its
register's width. -/
def encodeBlock (p : Params) (s : Snapshot) : Except ErrKind (List Byte) := do
  let (status, flags) ← statusAndFlags p s
  let out := assemble (blockWrites p s status flags)
  if out.length ≠ bufLen then .error .invariantError else .ok out

/-- ENCODE's result, or none where it is refused: representability comes before every error (41_encoder.md R176), and
`ENC_OVERFLOW_POLICY` says what happens without it. DESIGN CHOICE, log entry 23: R176 ranks only the refusal against the
errors of R212. Under `rangeError` this RangeError precedes an unknown label's FaultNameError too, whatever `ERR_PRIORITY`
is; under `wrap` the errors of R212 are reported as for a Snapshot that fits. The block takes neither policy. -/
def encodeResult (p : Params) (s : Snapshot) : Option (Except ErrKind (List Byte)) :=
  if representable p s then some (encodeBlock p s)
  else match p.encOverflow with
    | .refuse     => none
    | .rangeError => some (.error .rangeError)
    | .wrap       => some (encodeBlock p s)

/-- DECODE (40_decoder.md R120). -/
def execDecode (s : State) : Host.Outcome State Fault Refusal :=
  .next (settle driveSnapshot (decodeBlock params (byteOperand s)) s)

/-- ENCODE (41_encoder.md R170, R176). -/
def execEncode (s : State) : Host.Outcome State Fault Refusal :=
  match encodeResult params s.inSnap with
  | none   => .refused .encodeNotRepresentable
  | some r => .next (settle driveBytes r s)

end Sys2Proof.Machine
end

