-- ==== Sys2Proof/Machine/Dispatch.lean ====
section
/-! DEFINITION. One arm per operation: the meaning `exec` gives it. -/

namespace Sys2Proof.Machine

def exec (i : Instr) (s : State) : Host.Outcome State Fault Refusal :=
  match i with
  | .decode => Sys2Proof.Machine.execDecode s
  | .encode => Sys2Proof.Machine.execEncode s
  | .fltDec => Sys2Proof.Machine.execFltDec s
  | .fltEnc => Sys2Proof.Machine.execFltEnc s
  | .stsDec => Sys2Proof.Machine.execStsDec s
  | .stsEnc => Sys2Proof.Machine.execStsEnc s
  | .cstDec => Sys2Proof.Machine.execCstDec s
  | .cstEnc => Sys2Proof.Machine.execCstEnc s

end Sys2Proof.Machine
end

