-- ==== Sys2Proof/Machine/Step.lean ====
section
/-! DEFINITION. One step: one evaluation of the operation on `op` with the operands on the input ports (00_scope.md
R15). Nothing advances: there is no program counter (10_state.md R30). -/

namespace Sys2Proof.Machine

/-- One evaluation. -/
def step (s : State) : Host.Outcome State Fault Refusal :=
  exec (fetchInstr s) s

/-- The opcode-table word `w` of `nbits` bits on the select port, which is where `step` takes its operation from; the
operands stay what they are on the other ports. How a program comes to run is log entry 18. -/
def State.withFetchWord (s : State) (nbits w : Nat) : State :=
  { s with op := BitVec.ofNat opW (w % 2 ^ nbits) }

end Sys2Proof.Machine
end

