-- ==== Sys2Proof/Machine/Interchange.lean ====
section
/-! DEFINITION. The interchange contract (10_state.md R27): the Snapshot as a flat mapping from field name to value, and
how a decimal field prints. No operation of the block reads it; it is what a serialization layer must preserve. -/

namespace Sys2Proof.Machine

/-- The value of a field in the flat mapping: "numbers, booleans, strings, string-set" (10_state.md R27). -/
inductive FieldValue where
  | integer (n : Int)
  /-- A decimal number with exactly `DEC_DIGITS` fractional digits: the whole part, and the digits as a number. -/
  | decimal (whole : Nat) (fraction : Fin decUnit)
  | boolean (b : Bool)
  | text (t : String)
  | texts (ts : List String)
  deriving DecidableEq, Repr

/-- A decimal field: `c div 100` and `c mod 100` (10_state.md R27). -/
def decimalOf (c : Hundredths) : FieldValue :=
  .decimal (c.toNat / decUnit) ⟨c.toNat % decUnit, Nat.mod_lt _ (by decide)⟩

/-- The last `n` decimal digits of `v`, the most significant first. -/
def lastDigits : Nat → Nat → String
  | 0, _     => ""
  | n + 1, v => lastDigits n (v / 10) ++ toString (v % 10)

/-- A decimal field as a serializer prints it, `13.60` for 1360 (10_state.md R27, 30_encoding.md R99). -/
def decimalText (c : Hundredths) : String :=
  toString (c.toNat / decUnit) ++ "." ++ lastDigits decDigits c.toNat

/-- The texts of the labels in a set, by ascending identifier, which is a convention (42_fault_bitmap.md R225); an
identifier that is no fault label has no text here, and no decoded Snapshot holds one. -/
def faultTexts (p : Params) (F : LabelSet) : List String :=
  (List.range' faultLo (faultHi + 1 - faultLo)).filterMap fun i =>
    if i ≠ p.faultUnnamedBit ∧ F.getLsbD i = true then labelText p (BitVec.ofNat lidW i) else none

/-- The text of a charging state: that of its label (10_state.md R27, 44_name_tables.md R252). -/
def chargingStateText (p : Params) (code : Byte) : String :=
  (labelText p (labelOfChargingState (chargingStateOfCode code))).getD ""

/-- The flat mapping, in the order of the Snapshot. The names are the spec's identifiers, not the repository's keys, which
no source here gives (10_state.md R23, R27); PRESUMED, unsafe, log entry 21. -/
def interchangeView (p : Params) (s : Snapshot) : List (String × FieldValue) :=
  [ ("soc", .integer s.soc.toNat),
    ("battery_voltage", decimalOf s.batteryVoltage),
    ("charging_current", decimalOf s.chargingCurrent),
    ("controller_temperature", .integer s.controllerTemperature.toInt),
    ("battery_temperature", .integer s.batteryTemperature.toInt),
    ("load_voltage", decimalOf s.loadVoltage),
    ("load_current", decimalOf s.loadCurrent),
    ("load_power", decimalOf s.loadPower),
    ("panel_voltage", decimalOf s.panelVoltage),
    ("panel_current", decimalOf s.panelCurrent),
    ("charging_power", decimalOf s.chargingPower) ] ++
  [ ("min_battery_voltage_today", decimalOf s.minBatteryVoltageToday),
    ("max_battery_voltage_today", decimalOf s.maxBatteryVoltageToday),
    ("max_charging_current_today", decimalOf s.maxChargingCurrentToday),
    ("max_discharging_current_today", decimalOf s.maxDischargingCurrentToday),
    ("max_charging_power_today", decimalOf s.maxChargingPowerToday),
    ("max_discharging_power_today", decimalOf s.maxDischargingPowerToday),
    ("charging_amp_hours_today", decimalOf s.chargingAmpHoursToday),
    ("discharging_amp_hours_today", decimalOf s.dischargingAmpHoursToday),
    ("power_generated_today", decimalOf s.powerGeneratedToday),
    ("power_consumed_today", decimalOf s.powerConsumedToday) ] ++
  [ ("total_operating_days", .integer s.totalOperatingDays.toNat),
    ("total_over_discharges", .integer s.totalOverDischarges.toNat),
    ("total_full_charges", .integer s.totalFullCharges.toNat),
    ("total_charging_amp_hours", decimalOf s.totalChargingAmpHours),
    ("total_discharging_amp_hours", decimalOf s.totalDischargingAmpHours),
    ("cumulative_power_generated", decimalOf s.cumulativePowerGenerated),
    ("cumulative_power_consumed", decimalOf s.cumulativePowerConsumed),
    ("load_on", .boolean s.loadOn),
    ("brightness", .integer s.brightness.toNat),
    ("charging_state", .text (chargingStateText p s.chargingState)),
    ("faults", .texts (faultTexts p s.faults)) ]

end Sys2Proof.Machine
end

