-- ==== Sys2Proof/Safety.lean ====
section
/-! DEFINITION. The terms in which claims about the block are made. They are written from the rules on bytes, numbers and
bounds, and call no function of the meanings. -/

namespace Sys2Proof.Machine

/-! ### Reading a port -/

/-- Lane `i` of a byte port as a number. -/
def lane (v : Lanes) (i : Nat) : Nat := (v.toList.getD i 0).toNat

/-- The big-endian 16-bit number at lanes `i`, `i + 1` (20_memory.md R50). -/
def be16 (v : Lanes) (i : Nat) : Nat := lane v i * 256 + lane v (i + 1)

/-- The big-endian 32-bit number at lanes `i` to `i + 3` (20_memory.md R50, R51). -/
def be32 (v : Lanes) (i : Nat) : Nat := be16 v i * 65536 + be16 v (i + 2)

/-! ### The state after an evaluation -/

/-- After a success, before the operation's own outputs are put in: `err` is 0, every data output is a free value, and
every input port is as it was. -/
def State.afterSuccess (s : State) : State :=
  { s with err := 0, outBytes := Config.freeBytes s.evals, outSnap := Config.freeSnap s.evals,
           outLid := Config.freeLid s.evals, evals := s.evals + 1 }

/-- After an error with code `code`: every data output is a free value and every input port is as it was
(60_exceptions.md R276). -/
def State.afterError (code : ErrCode) (s : State) : State := { s.afterSuccess with err := code }

/-- The input ports hold the same levels. -/
def State.sameInputs (s t : State) : Prop :=
  s.op = t.op ∧ s.inLen = t.inLen ∧ s.inBytes = t.inBytes ∧ s.inSnap = t.inSnap ∧ s.inLid = t.inLid

/-- The ports operation `i` uses hold the same operand: no lane at or past `in_len`, and no port the operation does not
use, is compared (10_state.md R33, R34). -/
def sameOperand : Instr → State → State → Prop
  | .decode, s, t => s.inLen = t.inLen ∧ ∀ k < 70, k < s.inLen.toNat → lane s.inBytes k = lane t.inBytes k
  | .encode, s, t => s.inSnap = t.inSnap
  | .fltDec, s, t => s.inLen = t.inLen ∧ ∀ k < 4, k < s.inLen.toNat → lane s.inBytes k = lane t.inBytes k
  | .fltEnc, s, t => s.inSnap.faults = t.inSnap.faults
  | .stsDec, s, t => lane s.inBytes 0 = lane t.inBytes 0
  | .stsEnc, s, t => s.inSnap.loadOn = t.inSnap.loadOn ∧ s.inSnap.brightness = t.inSnap.brightness
  | .cstDec, s, t => lane s.inBytes 0 = lane t.inBytes 0
  | .cstEnc, s, t => s.inLid = t.inLid

/-- The data outputs that a success of operation `i` specifies hold the same levels (10_state.md R33, "used by"). -/
def sameResult : Instr → State → State → Prop
  | .decode, s, t => s.outSnap = t.outSnap ∧ s.outLid = t.outLid
  | .encode, s, t => s.outBytes = t.outBytes
  | .fltDec, s, t => s.outSnap.faults = t.outSnap.faults
  | .fltEnc, s, t => ∀ k < 4, lane s.outBytes k = lane t.outBytes k
  | .stsDec, s, t => s.outSnap.loadOn = t.outSnap.loadOn ∧ s.outSnap.brightness = t.outSnap.brightness
  | .stsEnc, s, t => lane s.outBytes 0 = lane t.outBytes 0
  | .cstDec, s, t => s.outSnap.chargingState = t.outSnap.chargingState ∧ s.outLid = t.outLid
  | .cstEnc, s, t => lane s.outBytes 0 = lane t.outBytes 0

/-! ### What ENCODE accepts -/

/-- The bounds of 41_encoder.md R175's table: every DEC field encodes to a raw value that fits its register. -/
def FitsRegisters (s : Snapshot) : Prop :=
  (s.batteryVoltage.toNat ≤ 655354 ∧ s.loadVoltage.toNat ≤ 655354 ∧ s.panelVoltage.toNat ≤ 655354 ∧
    s.minBatteryVoltageToday.toNat ≤ 655354 ∧ s.maxBatteryVoltageToday.toNat ≤ 655354) ∧
  (s.chargingCurrent.toNat ≤ 65535 ∧ s.loadCurrent.toNat ≤ 65535 ∧ s.panelCurrent.toNat ≤ 65535 ∧
    s.maxChargingCurrentToday.toNat ≤ 65535 ∧ s.maxDischargingCurrentToday.toNat ≤ 65535) ∧
  (s.loadPower.toNat ≤ 6553549 ∧ s.chargingPower.toNat ≤ 6553549 ∧ s.maxChargingPowerToday.toNat ≤ 6553549 ∧
    s.maxDischargingPowerToday.toNat ≤ 6553549 ∧ s.chargingAmpHoursToday.toNat ≤ 6553549 ∧
    s.dischargingAmpHoursToday.toNat ≤ 6553549) ∧
  (s.totalChargingAmpHours.toNat ≤ 429496729549 ∧ s.totalDischargingAmpHours.toNat ≤ 429496729549) ∧
  (s.powerGeneratedToday.toNat ≤ 655 ∧ s.powerConsumedToday.toNat ≤ 655) ∧
  (s.cumulativePowerGenerated.toNat ≤ 42949672 ∧ s.cumulativePowerConsumed.toNat ≤ 42949672)

/-- A bit of 16..31 with an entry in the fault table, all but `FAULT_UNNAMED_BIT` (44_name_tables.md R251, whose reading
for any value of the parameter this is). It is 16..30 for this model's value, 31, which is PRESUMED (log entry 7). -/
abbrev IsFaultBit (p : Params) (i : Nat) : Prop := 16 ≤ i ∧ i ≤ 31 ∧ i ≠ p.faultUnnamedBit

/-- Every label of the set is one of the fifteen fault labels (42_fault_bitmap.md R224); it names
`FAULT_UNNAMED_BIT`. -/
def OnlyFaultLabels (p : Params) (F : LabelSet) : Prop := ∀ i, F.getLsbD i = true → IsFaultBit p i

/-- ENCODE succeeds on such a Snapshot (41_encoder.md R214's premises). -/
def IsEncodable (p : Params) (s : Snapshot) : Prop :=
  FitsRegisters s ∧ s.brightness.toNat ≤ 100 ∧ OnlyFaultLabels p s.faults

/-! ### The name tables -/

/-- The 23 identifiers that are in a table (10_state.md R28): 0x00 to 0x07, and one for each fault bit. -/
abbrev IsLabel (p : Params) (lid : LabelId) : Prop := lid.toNat ≤ 7 ∨ IsFaultBit p lid.toNat

/-- `LABEL_TEXT` is an injective function on the identifiers that are in a table (92_eei_decisions.md D12). -/
def TextsAreOneToOne (p : Params) : Prop :=
  (∀ lid, (labelText p lid).isSome = true ↔ IsLabel p lid) ∧
  ∀ a b, IsLabel p a → labelText p a = labelText p b → a = b

/-! ### What DECODE produces -/

/-- The decoder's image, per class (10_state.md R41). The bounds of INT16, INT8S and CSTATE are those of their
carriers. Its bound on `faults` names `FAULT_UNNAMED_BIT` (log entry 7). -/
def InDecoderImage (p : Params) (s : Snapshot) : Prop :=
  (∀ c ∈ [s.batteryVoltage, s.loadVoltage, s.panelVoltage, s.minBatteryVoltageToday, s.maxBatteryVoltageToday],
    c.toNat % 10 = 0 ∧ c.toNat ≤ 655350) ∧
  (∀ c ∈ [s.chargingCurrent, s.loadCurrent, s.panelCurrent, s.maxChargingCurrentToday, s.maxDischargingCurrentToday],
    c.toNat ≤ 65535) ∧
  (∀ c ∈ [s.loadPower, s.chargingPower, s.maxChargingPowerToday, s.maxDischargingPowerToday, s.chargingAmpHoursToday,
      s.dischargingAmpHoursToday],
    c.toNat % 100 = 0 ∧ c.toNat ≤ 6553500) ∧
  (∀ c ∈ [s.totalChargingAmpHours, s.totalDischargingAmpHours], c.toNat % 100 = 0 ∧ c.toNat ≤ 429496729500) ∧
  (∀ c ∈ [s.powerGeneratedToday, s.powerConsumedToday], c.toNat ≤ 655) ∧
  (∀ c ∈ [s.cumulativePowerGenerated, s.cumulativePowerConsumed], c.toNat ≤ 42949673) ∧
  s.brightness.toNat ≤ 127 ∧ OnlyFaultLabels p s.faults

/-! ### The two directions after one another -/

/-- `Q` on a DEC ×0.1 field (41_encoder.md R214). -/
def gridTenth (c : Nat) : Nat := (c + 5) / 10 * 10

/-- `Q` on a DEC ×1 field (41_encoder.md R214). -/
def gridUnit (c : Nat) : Nat := (c + 50) / 100 * 100

/-- `Q`: each field moved to its register's grid, ties up (41_encoder.md R214). -/
def requantize (s : Snapshot) : Snapshot :=
  { s with
    batteryVoltage := BitVec.ofNat cw (gridTenth s.batteryVoltage.toNat)
    loadVoltage := BitVec.ofNat cw (gridTenth s.loadVoltage.toNat)
    panelVoltage := BitVec.ofNat cw (gridTenth s.panelVoltage.toNat)
    minBatteryVoltageToday := BitVec.ofNat cw (gridTenth s.minBatteryVoltageToday.toNat)
    maxBatteryVoltageToday := BitVec.ofNat cw (gridTenth s.maxBatteryVoltageToday.toNat)
    loadPower := BitVec.ofNat cw (gridUnit s.loadPower.toNat)
    chargingPower := BitVec.ofNat cw (gridUnit s.chargingPower.toNat)
    maxChargingPowerToday := BitVec.ofNat cw (gridUnit s.maxChargingPowerToday.toNat)
    maxDischargingPowerToday := BitVec.ofNat cw (gridUnit s.maxDischargingPowerToday.toNat)
    chargingAmpHoursToday := BitVec.ofNat cw (gridUnit s.chargingAmpHoursToday.toNat)
    dischargingAmpHoursToday := BitVec.ofNat cw (gridUnit s.dischargingAmpHoursToday.toNat)
    totalChargingAmpHours := BitVec.ofNat cw (gridUnit s.totalChargingAmpHours.toNat)
    totalDischargingAmpHours := BitVec.ofNat cw (gridUnit s.totalDischargingAmpHours.toNat) }

/-- An energy register's raw value after a decode and an encode (41_encoder.md R215). -/
def gridEnergy (raw : Nat) : Nat := (raw + 50) / 100 * 100

/-- `B'` of 41_encoder.md R215 against the block `B` it came from: bytes 20 and 21 are zero, the fault word keeps bits
30 to 16 alone, the four energy fields are moved to multiples of 100, and every other byte is kept. -/
def NormalizedFrom (B B' : Lanes) : Prop :=
  (∀ k < 70, k ∉ [20, 21, 38, 39, 40, 41, 56, 57, 58, 59, 60, 61, 62, 63, 66, 68, 69] → lane B' k = lane B k) ∧
  be16 B' 20 = 0 ∧ be16 B' 38 = gridEnergy (be16 B 38) ∧ be16 B' 40 = gridEnergy (be16 B 40) ∧
  be32 B' 56 = gridEnergy (be32 B 56) ∧ be32 B' 60 = gridEnergy (be32 B 60) ∧
  lane B' 66 = lane B 66 % 128 ∧ be16 B' 68 = 0

/-! ### What an output port may hold -/

/-- The levels on the output ports are ones the operation on `op` can drive: `err` is one of its codes and, when it is 0,
the data outputs the operation specifies are legal (60_exceptions.md R271; 10_state.md R41; 41_encoder.md R191, R209,
R211, R179; 42_fault_bitmap.md R220, R223; 43_status_byte.md R240, R242; 44_name_tables.md R253, R254). -/
def State.OutputsLegal (s : State) : Prop :=
  match decodeOp s.op with
  | .decode => s.err = 1 ∨ (s.err = 0 ∧ InDecoderImage params s.outSnap ∧
      s.outLid.toNat = min s.outSnap.chargingState.toNat 7)
  | .encode => s.err = 2 ∨ s.err = 3 ∨ (s.err = 0 ∧ be16 s.outBytes 20 = 0 ∧ lane s.outBytes 64 % 128 ≤ 100 ∧
      (∀ i, (be32 s.outBytes 66).testBit i = true → IsFaultBit params i) ∧ be16 s.outBytes 38 % 100 = 0 ∧ be16 s.outBytes 40 % 100 = 0 ∧
      be32 s.outBytes 56 % 100 = 0 ∧ be32 s.outBytes 60 % 100 = 0)
  | .fltDec => s.err = 1 ∨ (s.err = 0 ∧ OnlyFaultLabels params s.outSnap.faults)
  | .fltEnc => s.err = 3 ∨ (s.err = 0 ∧ ∀ i, (be32 s.outBytes 0).testBit i = true → IsFaultBit params i)
  | .stsDec => s.err = 0 ∧ s.outSnap.brightness.toNat ≤ 127
  | .stsEnc => s.err = 2 ∨ (s.err = 0 ∧ lane s.outBytes 0 % 128 ≤ 100)
  | .cstDec => s.err = 0 ∧ s.outLid.toNat = min s.outSnap.chargingState.toNat 7
  | .cstEnc => s.err = 3 ∨ (s.err = 0 ∧ lane s.outBytes 0 ≤ 6)

end Sys2Proof.Machine
end

