-- ==== Sys2Proof/Certificates/Slice0/Obligations.lean ====
section
/-! DEFINITION. The statements, each from numbered rules of the spec. A statement that depends on a parameter of
00_scope.md's second table names it (R9): as a conjunct that says which value it is made for, or through `IsFaultBit params`
and the terms made from it, which stand for any value of `FAULT_UNNAMED_BIT` as 44_name_tables.md R251 reads them. The width
parameters `opW`, `errW`, `lenW`, `cw`, `lidW` are named by the types of the ports: every statement is made for their values
in Word.lean (log entry 11). -/

open Sys2Proof Sys2Proof.Machine

/-! ### The select and the step -/

/-- 30_encoding.md R80: the eight words of the table. -/
def Obligations.TableWordsSelectTheirOperations : Prop :=
  decode [0b000#8] = .ok (.decode, []) ∧ decode [0b001#8] = .ok (.encode, []) ∧
  decode [0b010#8] = .ok (.fltDec, []) ∧ decode [0b011#8] = .ok (.fltEnc, []) ∧
  decode [0b100#8] = .ok (.stsDec, []) ∧ decode [0b101#8] = .ok (.stsEnc, []) ∧
  decode [0b110#8] = .ok (.cstDec, []) ∧ decode [0b111#8] = .ok (.cstEnc, [])

/-- 30_encoding.md R80, R97: codes and operations correspond one to one, and no code is reserved. -/
def Obligations.SelectCodesRoundTrip : Prop :=
  (∀ (i : Instr) (rest : List Byte), i.wellFormed = true → decode (encode i ++ rest) = .ok (i, rest)) ∧
  ∀ op : OpCode, encodeOp (decodeOp op) = op

/-- 30_encoding.md R80, 00_scope.md R15: a step is one evaluation of the operation on `op`, and nothing is done around
it. -/
def Obligations.StepEvaluatesTheSelectedOperation : Prop :=
  (∀ (s : State) (i : Instr) (rest : List Byte), decode (fetchBytes s) = .ok (i, rest) → i.wellFormed = true →
    step s = exec i s) ∧
  ∀ (s : State) (i : Instr), step (s.withFetchWord 8 (encodeOp i).toNat) = exec i { s with op := encodeOp i }

/-! ### The whole machine -/

/-- 20_memory.md R57, 10_state.md R40: an evaluation only reads its operands. -/
def Obligations.NoOperationWritesAnInputPort : Prop :=
  ∀ (i : Instr) (s t : State), exec i s = .next t → s.sameInputs t ∧ t.evals = s.evals + 1

/-- 60_exceptions.md R271, R213: the codes each operation can drive on `err`; 4 to 7 never. -/
def Obligations.EachOperationDrivesOnlyItsOwnErrorCodes : Prop :=
  ∀ (i : Instr) (s t : State), exec i s = .next t → t.err = 0 ∨
    (t.err = 1 ∧ (i = .decode ∨ i = .fltDec)) ∨ (t.err = 2 ∧ (i = .encode ∨ i = .stsEnc)) ∨
    (t.err = 3 ∧ (i = .encode ∨ i = .fltEnc ∨ i = .cstEnc))

/-- 41_encoder.md R176, 00_scope.md R17: the refused evaluations are exactly those of ENCODE on a Snapshot that does not
fit, and nothing faults. That ENCODE is refused there is `ENC_OVERFLOW_POLICY` = `refuse` (log entry 5), and the bounds are those of `ENC_ROUND` half
away from zero (log entry 6). -/
def Obligations.OnlyUnfittingEncodeIsRefused : Prop :=
  params.encOverflow = .refuse ∧ params.encRound = .halfAwayFromZero ∧
  ∀ (i : Instr) (s : State), (∀ f, exec i s ≠ .fault f) ∧
    ∀ r, exec i s = .refused r ↔
      i = .encode ∧ ¬ FitsRegisters s.inSnap ∧ r = .encodeNotRepresentable

/-- 10_state.md R20, R33, R34; 20_memory.md R58, R64; 60_exceptions.md R280: an evaluation's result is a function of
the operand it uses. Outputs of earlier evaluations, unused ports and lanes past `in_len` do not enter it. -/
def Obligations.ResultDependsOnTheOperandAlone : Prop :=
  ∀ (i : Instr) (s t s' : State), sameOperand i s t → exec i s = .next s' →
    ∃ t', exec i t = .next t' ∧ t'.err = s'.err ∧ (s'.err = 0 → sameResult i s' t')

/-- 60_exceptions.md R272, 40_decoder.md R121, 42_fault_bitmap.md R222. -/
def Obligations.LengthErrorExactlyOnAWrongLength : Prop :=
  (∀ s t, exec .decode s = .next t → (t.err = 1 ↔ s.inLen.toNat ≠ 70)) ∧
  (∀ s t, exec .fltDec s = .next t → (t.err = 1 ↔ s.inLen.toNat ≠ 4)) ∧
  ∀ i s t, i ≠ .decode → i ≠ .fltDec → exec i s = .next t → t.err ≠ 1

/-- 60_exceptions.md R273, 41_encoder.md R209, R212, 43_status_byte.md R242; for `ENC_OVERFLOW_POLICY` = `refuse` and
`ERR_PRIORITY` RangeError first (log entries 5, 8). -/
def Obligations.RangeErrorExactlyOnBrightness : Prop :=
  params.encOverflow = .refuse ∧ params.errPriority = .rangeFirst ∧
  (∀ s t, exec .encode s = .next t → (t.err = 2 ↔ 100 < s.inSnap.brightness.toNat)) ∧
  (∀ s t, exec .stsEnc s = .next t → (t.err = 2 ↔ 100 < s.inSnap.brightness.toNat)) ∧
  ∀ i s t, i ≠ .encode → i ≠ .stsEnc → exec i s = .next t → t.err ≠ 2

/-- 60_exceptions.md R274, R279, 41_encoder.md R212: in ENCODE the brightness comes first (`ERR_PRIORITY`, log entry 8),
and a Snapshot that does not fit has no result (`ENC_OVERFLOW_POLICY` = `refuse`, log entry 5); which labels are known rests on `FAULT_UNNAMED_BIT` (log entry 7), CST_ENC's kind on log entry 12. -/
def Obligations.FaultNameErrorExactlyOnAnUnknownLabel : Prop :=
  params.encOverflow = .refuse ∧ params.errPriority = .rangeFirst ∧
  (∀ s t, exec .encode s = .next t →
    (t.err = 3 ↔ s.inSnap.brightness.toNat ≤ 100 ∧ ¬ OnlyFaultLabels params s.inSnap.faults)) ∧
  (∀ s t, exec .fltEnc s = .next t → (t.err = 3 ↔ ¬ OnlyFaultLabels params s.inSnap.faults)) ∧
  (∀ s t, exec .cstEnc s = .next t → (t.err = 3 ↔ 6 < s.inLid.toNat)) ∧
  ∀ i s t, i ≠ .encode → i ≠ .fltEnc → i ≠ .cstEnc → exec i s = .next t → t.err ≠ 3

/-- The output ports always hold what the operation on `op` can drive. Its bounds on fault bits and labels name
`FAULT_UNNAMED_BIT` (log entry 7); that ENCODE's energy registers are multiples of 100 is for `ENC_OVERFLOW_POLICY` = `refuse`
(log entry 5); the label identifiers are log entry 10. -/
def Obligations.EveryStepLeavesLegalOutputs : Prop :=
  params.encOverflow = .refuse ∧
  ∀ s t : State, s.OutputsLegal → step s = .next t → t.OutputsLegal

/-- The invariant holds before the host has driven a port; the levels there are the model's (log entry 3). -/
def Obligations.ResetOutputsAreLegal : Prop := State.reset.OutputsLegal

/-- 70_reset_and_hazards.md R300: from the first instant `err` is the function of the inputs. The input levels are the
model's choice (log entry 3). -/
def Obligations.ErrIsAlreadyTheFunctionOfTheInputsAtReset : Prop :=
  ∃ t, step State.reset = .next t ∧ t.err = State.reset.err

/-! ### DECODE -/

/-- 40_decoder.md R122: every 70-byte operand decodes; only `out_snap` and `out_lid` are driven. -/
def Obligations.DecodeSucceedsOnSeventyBytes : Prop :=
  ∀ s : State, s.inLen = 70 →
    ∃ sn lid, exec .decode s = .next { s.afterSuccess with outSnap := sn, outLid := lid }

/-- 40_decoder.md R121. -/
def Obligations.DecodeOfAnotherLengthIsALengthError : Prop :=
  ∀ s : State, s.inLen ≠ 70 → exec .decode s = .next (s.afterError 1)

/-- 40_decoder.md R123, R129, R151 to R153. -/
def Obligations.DecodeReadsTheIntegerFields : Prop :=
  ∀ s : State, s.inLen = 70 → ∃ t, exec .decode s = .next t ∧ t.err = 0 ∧
    t.outSnap.soc.toNat = be16 s.inBytes 0 ∧
    t.outSnap.totalOperatingDays.toNat = be16 s.inBytes 42 ∧
    t.outSnap.totalOverDischarges.toNat = be16 s.inBytes 44 ∧
    t.outSnap.totalFullCharges.toNat = be16 s.inBytes 46

/-- 40_decoder.md R124, R132, R133: two's complement. -/
def Obligations.DecodeReadsTheTemperatures : Prop :=
  ∀ s : State, s.inLen = 70 → ∃ t, exec .decode s = .next t ∧ t.err = 0 ∧
    t.outSnap.controllerTemperature.toInt =
      (if lane s.inBytes 6 < 128 then (lane s.inBytes 6 : Int) else (lane s.inBytes 6 : Int) - 256) ∧
    t.outSnap.batteryTemperature.toInt =
      (if lane s.inBytes 7 < 128 then (lane s.inBytes 7 : Int) else (lane s.inBytes 7 : Int) - 256)

/-- 40_decoder.md R125, R130, R134, R137, R141, R142. -/
def Obligations.DecodeReadsTheTenthFields : Prop :=
  ∀ s : State, s.inLen = 70 → ∃ t, exec .decode s = .next t ∧ t.err = 0 ∧
    t.outSnap.batteryVoltage.toNat = be16 s.inBytes 2 * 10 ∧
    t.outSnap.loadVoltage.toNat = be16 s.inBytes 8 * 10 ∧
    t.outSnap.panelVoltage.toNat = be16 s.inBytes 14 * 10 ∧
    t.outSnap.minBatteryVoltageToday.toNat = be16 s.inBytes 22 * 10 ∧
    t.outSnap.maxBatteryVoltageToday.toNat = be16 s.inBytes 24 * 10

/-- 40_decoder.md R126, R131, R135, R138, R143, R144. -/
def Obligations.DecodeReadsTheHundredthFields : Prop :=
  ∀ s : State, s.inLen = 70 → ∃ t, exec .decode s = .next t ∧ t.err = 0 ∧
    t.outSnap.chargingCurrent.toNat = be16 s.inBytes 4 ∧
    t.outSnap.loadCurrent.toNat = be16 s.inBytes 10 ∧
    t.outSnap.panelCurrent.toNat = be16 s.inBytes 16 ∧
    t.outSnap.maxChargingCurrentToday.toNat = be16 s.inBytes 26 ∧
    t.outSnap.maxDischargingCurrentToday.toNat = be16 s.inBytes 28

/-- 40_decoder.md R127, R136, R139, R145 to R148, R154, R155. -/
def Obligations.DecodeReadsTheUnscaledFields : Prop :=
  ∀ s : State, s.inLen = 70 → ∃ t, exec .decode s = .next t ∧ t.err = 0 ∧
    t.outSnap.loadPower.toNat = be16 s.inBytes 12 * 100 ∧
    t.outSnap.chargingPower.toNat = be16 s.inBytes 18 * 100 ∧
    t.outSnap.maxChargingPowerToday.toNat = be16 s.inBytes 30 * 100 ∧
    t.outSnap.maxDischargingPowerToday.toNat = be16 s.inBytes 32 * 100 ∧
    t.outSnap.chargingAmpHoursToday.toNat = be16 s.inBytes 34 * 100 ∧
    t.outSnap.dischargingAmpHoursToday.toNat = be16 s.inBytes 36 * 100 ∧
    t.outSnap.totalChargingAmpHours.toNat = be32 s.inBytes 48 * 100 ∧
    t.outSnap.totalDischargingAmpHours.toNat = be32 s.inBytes 52 * 100

/-- 40_decoder.md R128, R149, R150, R156, R157: to the nearest hundredth, a tie up, which is `DEC_ROUND` half away from zero
(D6, log entry 6). -/
def Obligations.DecodeRoundsTheEnergyFields : Prop :=
  params.decRound = .halfAwayFromZero ∧
  ∀ s : State, s.inLen = 70 → ∃ t, exec .decode s = .next t ∧ t.err = 0 ∧
    t.outSnap.powerGeneratedToday.toNat = (be16 s.inBytes 38 + 50) / 100 ∧
    t.outSnap.powerConsumedToday.toNat = (be16 s.inBytes 40 + 50) / 100 ∧
    t.outSnap.cumulativePowerGenerated.toNat = (be32 s.inBytes 56 + 50) / 100 ∧
    t.outSnap.cumulativePowerConsumed.toNat = (be32 s.inBytes 60 + 50) / 100

/-- 40_decoder.md R158, R159, R160, for `UNKNOWN_POLICY` = `Unrecognized(code)` (log entry 9); which bits name a fault rests on
`FAULT_UNNAMED_BIT` (log entry 7). -/
def Obligations.DecodeReadsStatusStateAndFaults : Prop :=
  params.unknownPolicy = .unrecognizedCode ∧
  ∀ s : State, s.inLen = 70 → ∃ t, exec .decode s = .next t ∧ t.err = 0 ∧
    (t.outSnap.loadOn = true ↔ 128 ≤ lane s.inBytes 64) ∧
    t.outSnap.brightness.toNat = lane s.inBytes 64 % 128 ∧
    t.outSnap.chargingState.toNat = lane s.inBytes 65 ∧
    t.outLid.toNat = (if lane s.inBytes 65 ≤ 6 then lane s.inBytes 65 else 7) ∧
    ∀ i, t.outSnap.faults.getLsbD i = (decide (IsFaultBit params i) && (be32 s.inBytes 66).testBit i)

/-- 40_decoder.md R140, R161: the reserved bytes, the ignored fault bits and the lost digits of the energy fields reach
no output, for `DEC_ROUND` half away from zero and `FAULT_UNNAMED_BIT` = 31 (log entries 6, 7). -/
def Obligations.DecodeDoesNotDependOnReservedBytes : Prop :=
  params.decRound = .halfAwayFromZero ∧ params.faultUnnamedBit = 31 ∧
  ∀ s t s' t' : State, s.inLen = 70 → t.inLen = 70 →
    (∀ k < 70, k ∉ [20, 21, 38, 39, 40, 41, 56, 57, 58, 59, 60, 61, 62, 63, 66, 68, 69] →
      lane s.inBytes k = lane t.inBytes k) →
    lane s.inBytes 66 % 128 = lane t.inBytes 66 % 128 →
    (be16 s.inBytes 38 + 50) / 100 = (be16 t.inBytes 38 + 50) / 100 →
    (be16 s.inBytes 40 + 50) / 100 = (be16 t.inBytes 40 + 50) / 100 →
    (be32 s.inBytes 56 + 50) / 100 = (be32 t.inBytes 56 + 50) / 100 →
    (be32 s.inBytes 60 + 50) / 100 = (be32 t.inBytes 60 + 50) / 100 →
    exec .decode s = .next s' → exec .decode t = .next t' →
    s'.err = 0 ∧ t'.err = 0 ∧ s'.outSnap = t'.outSnap ∧ s'.outLid = t'.outLid

/-- 10_state.md R41. That `faults` lies in 0x10..0x1E rests on `FAULT_UNNAMED_BIT` = 31, which is PRESUMED (log entry 7); the
statement names the parameter in `InDecoderImage params` and holds for any value of it. -/
def Obligations.DecodedSnapshotsLieInTheDecodersImage : Prop :=
  ∀ s t : State, exec .decode s = .next t → t.err = 0 → InDecoderImage params t.outSnap

/-! ### ENCODE -/

/-- 41_encoder.md R175: the bounds of the table, and the one exception in the decoder's image, for `ENC_ROUND` half
away from zero (D7, log entry 6). -/
def Obligations.RepresentableIsTheTableOfBounds : Prop :=
  params.encRound = .halfAwayFromZero ∧
  (∀ s : Snapshot, representable params s = true ↔ FitsRegisters s) ∧
  ∀ s : Snapshot, InDecoderImage params s → (representable params s = true ↔
    s.cumulativePowerGenerated.toNat ≠ 42949673 ∧ s.cumulativePowerConsumed.toNat ≠ 42949673)

/-- 41_encoder.md R176: what each policy does with a Snapshot that does not fit. `refuse` comes before every error,
`range_error` raises RangeError, `wrap` stores each field modulo its register. The block takes `ENC_OVERFLOW_POLICY` = `refuse` (log
entry 5); the bounds are those of `ENC_ROUND` half away from zero (log entry 6). That `range_error` raises RangeError on an
unknown label too, whatever `ERR_PRIORITY` is, is the model's choice (log entry 23): R176 does not say it. -/
def Obligations.UnfittingSnapshotsFollowTheOverflowPolicy : Prop :=
  params.encOverflow = .refuse ∧ params.encRound = .halfAwayFromZero ∧
  (∀ s : State, ¬ FitsRegisters s.inSnap → exec .encode s = .refused .encodeNotRepresentable) ∧
  ∀ s : Snapshot, ¬ FitsRegisters s →
    encodeResult { params with encOverflow := .refuse } s = none ∧
    encodeResult { params with encOverflow := .rangeError } s = some (.error .rangeError) ∧
    (s.brightness.toNat ≤ 100 → OnlyFaultLabels params s.faults →
      ∃ out, encodeResult { params with encOverflow := .wrap } s = some (.ok out) ∧ out.length = 70 ∧
        ∀ w ∈ blockWrites params s 0 0, w.scaled = true → memRead out w.addr w.width = w.value % 256 ^ w.width)

/-- 41_encoder.md R171, 20_memory.md R53: the writes of ENCODE give 70 bytes, each byte lies in exactly one write, and
every write is read back. -/
def Obligations.EncodeWritesEveryByteOnce : Prop :=
  ∀ (p : Params) (s : Snapshot) (status : Byte) (flags : BitVec 32),
    (assemble (blockWrites p s status flags)).length = 70 ∧
    (∀ k < 70, ((blockWrites p s status flags).filter fun w => decide (w.addr ≤ k ∧ k < w.addr + w.width)).length = 1) ∧
    ∀ w ∈ blockWrites p s status flags,
      memRead (assemble (blockWrites p s status flags)) w.addr w.width = w.value % 256 ^ w.width

/-! `IsEncodable params` bounds the labels by `FAULT_UNNAMED_BIT` (log entry 7) in each of the following. -/

/-- 41_encoder.md R170: ENCODE succeeds on every encodable Snapshot and drives `out_bytes` alone. -/
def Obligations.EncodeSucceedsOnEncodableSnapshots : Prop :=
  ∀ s : State, IsEncodable params s.inSnap → ∃ out, exec .encode s = .next { s.afterSuccess with outBytes := out }

/-- 41_encoder.md R172, R180, R202 to R204. -/
def Obligations.EncodeWritesTheIntegerFields : Prop :=
  ∀ s : State, IsEncodable params s.inSnap → ∃ t, exec .encode s = .next t ∧ t.err = 0 ∧
    be16 t.outBytes 0 = s.inSnap.soc.toNat ∧
    be16 t.outBytes 42 = s.inSnap.totalOperatingDays.toNat ∧
    be16 t.outBytes 44 = s.inSnap.totalOverDischarges.toNat ∧
    be16 t.outBytes 46 = s.inSnap.totalFullCharges.toNat

/-- 41_encoder.md R173, R183, R184. -/
def Obligations.EncodeWritesTheTemperatures : Prop :=
  ∀ s : State, IsEncodable params s.inSnap → ∃ t, exec .encode s = .next t ∧ t.err = 0 ∧
    (lane t.outBytes 6 : Int) = s.inSnap.controllerTemperature.toInt % 256 ∧
    (lane t.outBytes 7 : Int) = s.inSnap.batteryTemperature.toInt % 256

/-- 41_encoder.md R174, R181, R185, R188, R192, R193: nearest, a tie up, which is `ENC_ROUND` half away from zero (D7, log
entry 6). -/
def Obligations.EncodeWritesTheTenthFields : Prop :=
  params.encRound = .halfAwayFromZero ∧
  ∀ s : State, IsEncodable params s.inSnap → ∃ t, exec .encode s = .next t ∧ t.err = 0 ∧
    be16 t.outBytes 2 = (s.inSnap.batteryVoltage.toNat + 5) / 10 ∧
    be16 t.outBytes 8 = (s.inSnap.loadVoltage.toNat + 5) / 10 ∧
    be16 t.outBytes 14 = (s.inSnap.panelVoltage.toNat + 5) / 10 ∧
    be16 t.outBytes 22 = (s.inSnap.minBatteryVoltageToday.toNat + 5) / 10 ∧
    be16 t.outBytes 24 = (s.inSnap.maxBatteryVoltageToday.toNat + 5) / 10

/-- 41_encoder.md R177, R182, R186, R189, R194, R195. -/
def Obligations.EncodeWritesTheHundredthFields : Prop :=
  ∀ s : State, IsEncodable params s.inSnap → ∃ t, exec .encode s = .next t ∧ t.err = 0 ∧
    be16 t.outBytes 4 = s.inSnap.chargingCurrent.toNat ∧
    be16 t.outBytes 10 = s.inSnap.loadCurrent.toNat ∧
    be16 t.outBytes 16 = s.inSnap.panelCurrent.toNat ∧
    be16 t.outBytes 26 = s.inSnap.maxChargingCurrentToday.toNat ∧
    be16 t.outBytes 28 = s.inSnap.maxDischargingCurrentToday.toNat

/-- 41_encoder.md R178, R187, R190, R196 to R199, R205, R206: nearest, a tie up, which is `ENC_ROUND` half away from
zero (D7, log entry 6). -/
def Obligations.EncodeWritesTheUnscaledFields : Prop :=
  params.encRound = .halfAwayFromZero ∧
  ∀ s : State, IsEncodable params s.inSnap → ∃ t, exec .encode s = .next t ∧ t.err = 0 ∧
    be16 t.outBytes 12 = (s.inSnap.loadPower.toNat + 50) / 100 ∧
    be16 t.outBytes 18 = (s.inSnap.chargingPower.toNat + 50) / 100 ∧
    be16 t.outBytes 30 = (s.inSnap.maxChargingPowerToday.toNat + 50) / 100 ∧
    be16 t.outBytes 32 = (s.inSnap.maxDischargingPowerToday.toNat + 50) / 100 ∧
    be16 t.outBytes 34 = (s.inSnap.chargingAmpHoursToday.toNat + 50) / 100 ∧
    be16 t.outBytes 36 = (s.inSnap.dischargingAmpHoursToday.toNat + 50) / 100 ∧
    be32 t.outBytes 48 = (s.inSnap.totalChargingAmpHours.toNat + 50) / 100 ∧
    be32 t.outBytes 52 = (s.inSnap.totalDischargingAmpHours.toNat + 50) / 100

/-- 41_encoder.md R179, R200, R201, R207, R208. -/
def Obligations.EncodeWritesTheEnergyFields : Prop :=
  ∀ s : State, IsEncodable params s.inSnap → ∃ t, exec .encode s = .next t ∧ t.err = 0 ∧
    be16 t.outBytes 38 = s.inSnap.powerGeneratedToday.toNat * 100 ∧
    be16 t.outBytes 40 = s.inSnap.powerConsumedToday.toNat * 100 ∧
    be32 t.outBytes 56 = s.inSnap.cumulativePowerGenerated.toNat * 100 ∧
    be32 t.outBytes 60 = s.inSnap.cumulativePowerConsumed.toNat * 100

/-- 41_encoder.md R191, R210, and the successes of R209 and R211. -/
def Obligations.EncodeWritesReservedStatusStateAndFaults : Prop :=
  ∀ s : State, IsEncodable params s.inSnap → ∃ t, exec .encode s = .next t ∧ t.err = 0 ∧
    be16 t.outBytes 20 = 0 ∧
    lane t.outBytes 64 = (if s.inSnap.loadOn then 128 else 0) + s.inSnap.brightness.toNat ∧
    lane t.outBytes 65 = s.inSnap.chargingState.toNat ∧
    ∀ i, (be32 t.outBytes 66).testBit i = (decide (IsFaultBit params i) && s.inSnap.faults.getLsbD i)

/-- 41_encoder.md R212: RangeError, then FaultNameError. The order is `ERR_PRIORITY`, the spec's decision D14
(log entry 8). -/
def Obligations.EncodeReportsRangeBeforeName : Prop :=
  params.errPriority = .rangeFirst ∧
  ∀ s : State, FitsRegisters s.inSnap →
    (100 < s.inSnap.brightness.toNat → exec .encode s = .next (s.afterError 2)) ∧
    (s.inSnap.brightness.toNat ≤ 100 → ¬ OnlyFaultLabels params s.inSnap.faults → exec .encode s = .next (s.afterError 3))

/-- 41_encoder.md R214: `DECODE(ENCODE(s)) = Q(s)`, `Q` is idempotent, keeps the decoder's image, and moves a field by
at most half a register unit; for `ENC_ROUND` half away from zero and `UNKNOWN_POLICY` = `Unrecognized(code)`
(log entries 6, 9). -/
def Obligations.DecodeAfterEncodeRequantizes : Prop :=
  params.encRound = .halfAwayFromZero ∧ params.unknownPolicy = .unrecognizedCode ∧
  (∀ s : State, IsEncodable params s.inSnap → ∃ t, exec .encode s = .next t ∧ t.err = 0 ∧
    ∀ u : State, u.inLen = 70 → u.inBytes = t.outBytes →
      ∃ v, exec .decode u = .next v ∧ v.err = 0 ∧ v.outSnap = requantize s.inSnap) ∧
  (∀ s : Snapshot, IsEncodable params s → requantize (requantize s) = requantize s) ∧
  (∀ s : Snapshot, InDecoderImage params s → requantize s = s) ∧
  ∀ c : Nat, gridTenth c ≤ c + 5 ∧ c ≤ gridTenth c + 5 ∧ gridUnit c ≤ c + 50 ∧ c ≤ gridUnit c + 50

/-- 41_encoder.md R215: `ENCODE(DECODE(B))`: refused, RangeError, or `B'`; and when `B' = B`; for `DEC_ROUND` half
away from zero, `ENC_OVERFLOW_POLICY` = `refuse`, `UNKNOWN_POLICY` = `Unrecognized(code)` and `FAULT_UNNAMED_BIT` = 31 (log
entries 6, 5, 9, 7). -/
def Obligations.EncodeAfterDecodeNormalizes : Prop :=
  params.decRound = .halfAwayFromZero ∧ params.encOverflow = .refuse ∧ params.unknownPolicy = .unrecognizedCode ∧
  params.faultUnnamedBit = 31 ∧
  ∀ s : State, s.inLen = 70 → ∃ t, exec .decode s = .next t ∧ t.err = 0 ∧
    ∀ u : State, u.inSnap = t.outSnap →
      if 4294967250 ≤ be32 s.inBytes 56 ∨ 4294967250 ≤ be32 s.inBytes 60 then
        exec .encode u = .refused .encodeNotRepresentable
      else if 100 < lane s.inBytes 64 % 128 then exec .encode u = .next (u.afterError 2)
      else ∃ v, exec .encode u = .next v ∧ v.err = 0 ∧ NormalizedFrom s.inBytes v.outBytes ∧
        (v.outBytes = s.inBytes ↔
          be16 s.inBytes 20 = 0 ∧ lane s.inBytes 66 < 128 ∧ be16 s.inBytes 68 = 0 ∧ be16 s.inBytes 38 % 100 = 0 ∧
          be16 s.inBytes 40 % 100 = 0 ∧ be32 s.inBytes 56 % 100 = 0 ∧ be32 s.inBytes 60 % 100 = 0)

/-- 41_encoder.md R216: on the decoder's image `ENC_ROUND` cannot be observed. -/
def Obligations.EncodeRoundingIsUnobservableOnDecodedSnapshots : Prop :=
  ∀ s : Snapshot, InDecoderImage params s →
    encodeResult { params with encRound := .truncate } s = encodeResult { params with encRound := .halfAwayFromZero } s

/-- 30_encoding.md R81: DECODE's status, charging state and faults are those of the three small operations on lane 64,
lane 65 and lanes 66 to 69; ENCODE's lane 64 and lanes 66 to 69 are those of the two small operations on its fields. -/
def Obligations.BlockOperationsContainTheSmallCodecs : Prop :=
  (∀ s t : State, s.inLen = 70 → exec .decode s = .next t → ∀ u v : State,
    (lane u.inBytes 0 = lane s.inBytes 64 → exec .stsDec u = .next v → sameResult .stsDec t v) ∧
    (lane u.inBytes 0 = lane s.inBytes 65 → exec .cstDec u = .next v → sameResult .cstDec t v) ∧
    (u.inLen = 4 → (∀ k < 4, lane u.inBytes k = lane s.inBytes (66 + k)) → exec .fltDec u = .next v →
      v.err = 0 ∧ sameResult .fltDec t v)) ∧
  ∀ s t : State, exec .encode s = .next t → t.err = 0 → ∀ u v : State,
    (sameOperand .stsEnc s u → exec .stsEnc u = .next v →
      v.err = 0 ∧ lane v.outBytes 0 = lane t.outBytes 64) ∧
    (sameOperand .fltEnc s u → exec .fltEnc u = .next v →
      v.err = 0 ∧ ∀ k < 4, lane v.outBytes k = lane t.outBytes (66 + k))

/-! ### The small codecs -/

/-- 42_fault_bitmap.md R220, R221: the bits 16 to 30, for `FAULT_UNNAMED_BIT` = 31, which is PRESUMED (log entry 7). -/
def Obligations.FltDecNamesTheSetBits : Prop :=
  (params.faultUnnamedBit = 31 ∧ ∀ i, IsFaultBit params i ↔ 16 ≤ i ∧ i ≤ 30) ∧
  ∀ s : State, s.inLen = 4 → ∃ F : LabelSet,
    exec .fltDec s = .next { s.afterSuccess with outSnap := { Config.freeSnap s.evals with faults := F } } ∧
    ∀ i, F.getLsbD i = (decide (IsFaultBit params i) && (be32 s.inBytes 0).testBit i)

/-- 42_fault_bitmap.md R222: LengthError exactly on a length other than 4, and inside DECODE, which hands it four bytes,
never. -/
def Obligations.FltDecOfAnotherLengthIsALengthError : Prop :=
  (∀ s : State, s.inLen ≠ 4 → exec .fltDec s = .next (s.afterError 1)) ∧
  (∀ s t : State, s.inLen = 4 → exec .fltDec s = .next t → t.err = 0) ∧
  ∀ s t : State, s.inLen = 70 → exec .decode s = .next t → t.err = 0

/-- 42_fault_bitmap.md R223: the word has bit `i` exactly for the labels `i` of the set; lanes 4 to 69 are not
driven. Which labels are fault labels rests on `FAULT_UNNAMED_BIT` (log entry 7). -/
def Obligations.FltEncSetsTheNamedBits : Prop :=
  ∀ s : State, OnlyFaultLabels params s.inSnap.faults → ∃ out : Lanes,
    exec .fltEnc s = .next { s.afterSuccess with outBytes := out } ∧
    (∀ i, (be32 out 0).testBit i = (decide (IsFaultBit params i) && s.inSnap.faults.getLsbD i)) ∧
    ∀ k, 4 ≤ k → lane out k = lane (Config.freeBytes s.evals) k

/-- 42_fault_bitmap.md R224. Which labels are fault labels rests on `FAULT_UNNAMED_BIT` (log entry 7). -/
def Obligations.FltEncRejectsAnyOtherLabel : Prop :=
  ∀ s : State, ¬ OnlyFaultLabels params s.inSnap.faults → exec .fltEnc s = .next (s.afterError 3)

/-- 42_fault_bitmap.md R226, for `FAULT_UNNAMED_BIT` = 31 (log entry 7). -/
def Obligations.FaultCodecRoundTrips : Prop :=
  params.faultUnnamedBit = 31 ∧
  (∀ s t u : State, OnlyFaultLabels params s.inSnap.faults → exec .fltEnc s = .next t →
    u.inLen = 4 → u.inBytes = t.outBytes → ∃ v, exec .fltDec u = .next v ∧ v.err = 0 ∧
      v.outSnap.faults = s.inSnap.faults) ∧
  ∀ s t u : State, s.inLen = 4 → exec .fltDec s = .next t → u.inSnap.faults = t.outSnap.faults →
    ∃ v, exec .fltEnc u = .next v ∧ v.err = 0 ∧ be32 v.outBytes 0 = be32 s.inBytes 0 &&& 0x7FFF0000

/-- 43_status_byte.md R240, R241: never an error, and the brightness is not checked. -/
def Obligations.StsDecSplitsTheByte : Prop :=
  ∀ s : State, ∃ (on : Bool) (bright : BitVec 8),
    exec .stsDec s = .next { s.afterSuccess with
      outSnap := { Config.freeSnap s.evals with loadOn := on, brightness := bright } } ∧
    (on = true ↔ 128 ≤ lane s.inBytes 0) ∧ bright.toNat = lane s.inBytes 0 % 128

/-- 43_status_byte.md R242; lanes 1 to 69 are not driven. -/
def Obligations.StsEncPacksOrRangeErrors : Prop :=
  ∀ s : State,
    (s.inSnap.brightness.toNat ≤ 100 → ∃ out : Lanes, exec .stsEnc s = .next { s.afterSuccess with outBytes := out } ∧
      lane out 0 = (if s.inSnap.loadOn then 128 else 0) + s.inSnap.brightness.toNat ∧
      ∀ k, 1 ≤ k → lane out k = lane (Config.freeBytes s.evals) k) ∧
    (100 < s.inSnap.brightness.toNat → exec .stsEnc s = .next (s.afterError 2))

/-- 43_status_byte.md R243. -/
def Obligations.StatusCodecRoundTrips : Prop :=
  (∀ s t u : State, s.inSnap.brightness.toNat ≤ 100 → exec .stsEnc s = .next t → u.inBytes = t.outBytes →
    ∃ v, exec .stsDec u = .next v ∧ v.outSnap.loadOn = s.inSnap.loadOn ∧ v.outSnap.brightness = s.inSnap.brightness) ∧
  ∀ s t u : State, exec .stsDec s = .next t → u.inSnap.loadOn = t.outSnap.loadOn →
    u.inSnap.brightness = t.outSnap.brightness →
    ∃ v, exec .stsEnc u = .next v ∧
      if lane s.inBytes 0 % 128 ≤ 100 then v.err = 0 ∧ lane v.outBytes 0 = lane s.inBytes 0 else v.err = 2

/-- 44_name_tables.md R252, R253: the code is kept, and its label is `unknown` from 7 on, for `UNKNOWN_POLICY` =
`Unrecognized(code)` (log entry 9). -/
def Obligations.CstDecKeepsTheCodeAndLabelsIt : Prop :=
  params.unknownPolicy = .unrecognizedCode ∧
  ∀ s : State, ∃ (code : Byte) (lid : LabelId),
    exec .cstDec s = .next { s.afterSuccess with
      outSnap := { Config.freeSnap s.evals with chargingState := code }, outLid := lid } ∧
    code.toNat = lane s.inBytes 0 ∧ lid.toNat = (if lane s.inBytes 0 ≤ 6 then lane s.inBytes 0 else 7)

/-- 44_name_tables.md R254; lanes 1 to 69 are not driven. That the error is FaultNameError's code is the spec's decision
D16 (log entry 12). -/
def Obligations.CstEncAcceptsTheModeLabelsOnly : Prop :=
  ∀ s : State,
    (s.inLid.toNat ≤ 6 → ∃ out : Lanes, exec .cstEnc s = .next { s.afterSuccess with outBytes := out } ∧
      lane out 0 = s.inLid.toNat ∧ ∀ k, 1 ≤ k → lane out k = lane (Config.freeBytes s.evals) k) ∧
    (6 < s.inLid.toNat → exec .cstEnc s = .next (s.afterError 3))

/-- 44_name_tables.md R256: a mode's label leads back to its code, an unrecognized code's label to an error. -/
def Obligations.ChargingStateLookupsRoundTrip : Prop :=
  (∀ s t u : State, exec .cstDec s = .next t → u.inLid = t.outLid → ∃ v, exec .cstEnc u = .next v ∧
    if lane s.inBytes 0 ≤ 6 then v.err = 0 ∧ lane v.outBytes 0 = lane s.inBytes 0 else v.err = 3) ∧
  ∀ s t u : State, s.inLid.toNat ≤ 6 → exec .cstEnc s = .next t → u.inBytes = t.outBytes →
    ∃ v, exec .cstDec u = .next v ∧ v.err = 0 ∧ v.outLid = s.inLid

/-- 10_state.md R37: the sum and the byte are in bijection, codes 0 to 6 being the modes; and a code decodes to the state
that its byte carries, for `UNKNOWN_POLICY` = `Unrecognized(code)` (log entry 9). -/
def Obligations.ChargingStatesAreTheByteValues : Prop :=
  (∀ code : Byte, codeOfChargingState (chargingStateOfCode code) = code) ∧
  (∀ c : ChargingState, chargingStateOfCode (codeOfChargingState c) = c) ∧
  (∀ code : Byte, (∃ m : Fin 7, chargingStateOfCode code = .mode m ∧ m.val = code.toNat) ↔ code.toNat ≤ 6) ∧
  params.unknownPolicy = .unrecognizedCode ∧ ∀ code : Byte, decodedState params code = chargingStateOfCode code

/-- 44_name_tables.md R255, 10_state.md R28: for this model's `LABEL_TEXT` exactly 23 identifiers have a text, 0x00 to 0x07 and
one for each fault bit, and no two the same. The texts but three are general knowledge (log entry 10), and which bits are
fault bits rests on `FAULT_UNNAMED_BIT` (log entry 7). -/
def Obligations.LabelTextsAreOneToOne : Prop :=
  TextsAreOneToOne params ∧ params.labelTexts.length = 23

/-! ### Bytes and the host -/

/-- 20_memory.md R51, R52, R53: big-endian reads, the high register first, and a write read back, with every other byte
of the buffer kept. -/
def Obligations.OperandBytesAreBigEndian : Prop :=
  (∀ (B : List Byte) (a : Nat), memRead B a 1 = byteAt B a ∧ memRead B a 2 = byteAt B a * 256 + byteAt B (a + 1)) ∧
  (∀ (B : List Byte) (a : Nat), memRead B a 4 = memRead B a 2 * 65536 + memRead B (a + 2) 2) ∧
  (∀ (B : List Byte) (k : Nat), memRead B (4 * k) 4 = imageWord B (2 * k) * 65536 + imageWord B (2 * k + 1)) ∧
  (∀ (B : List Byte) (a n : Nat), memRead B a n < 256 ^ n) ∧
  ∀ (out : List Byte) (a n v : Nat), a + n ≤ out.length →
    memRead (memWrite out a n v) a n = v % 256 ^ n ∧ (memWrite out a n v).length = out.length ∧
    ∀ i, i < a ∨ a + n ≤ i → byteAt (memWrite out a n v) i = byteAt out i

/-- 10_state.md R33, R35; 30_encoding.md R99: an evaluation presented on the ports is the one the block makes. The operand is
on the ports the operation uses, in every form; a byte sequence the ports can hold is read back with its length, and one of
any other length than the operation's, the lengths the ports cannot present included, is a LengthError. -/
def Obligations.PresentedEvaluationsAreTheOnesMade : Prop :=
  (∀ (e : Evaluation) (s : State), step (s.present e) = exec e.instr (s.present e)) ∧
  ∀ s : State,
    (∀ B : List Byte, let e := Evaluation.decode B
      (e.wellFormed = true → (s.present e).inLen.toNat = B.length) ∧ (B.length ≤ 70 → byteOperand (s.present e) = B) ∧
      (B.length ≠ 70 → step (s.present e) = .next ((s.present e).afterError 1))) ∧
    (∀ W : List Byte, let e := Evaluation.fltDec W
      (e.wellFormed = true → (s.present e).inLen.toNat = W.length) ∧ (W.length ≤ 70 → byteOperand (s.present e) = W) ∧
      (W.length ≠ 4 → step (s.present e) = .next ((s.present e).afterError 1))) ∧
    (∀ snap, (s.present (.encode snap)).inSnap = snap) ∧
    (∀ F, (s.present (.fltEnc F)).inSnap = { s.inSnap with faults := F }) ∧
    (∀ b, oneByteOperand (s.present (.stsDec b)) = b) ∧
    (∀ on bright, (s.present (.stsEnc on bright)).inSnap = { s.inSnap with loadOn := on, brightness := bright }) ∧
    (∀ code, oneByteOperand (s.present (.cstDec code)) = code) ∧
    ∀ lid, (s.present (.cstEnc lid)).inLid = lid

/-- 10_state.md R27, 70_reset_and_hazards.md R316: the flat mapping has 32 distinct names, and, for every `LABEL_TEXT` and
`FAULT_UNNAMED_BIT` under which the texts are one to one, it loses of a Snapshot with fault labels only nothing but which
unrecognized code the charging state holds. The names are not the source's (log entry 21). -/
def Obligations.InterchangeViewKeepsAllButTheUnrecognizedCode : Prop :=
  (∀ (p : Params) (s : Snapshot), ((interchangeView p s).map Prod.fst).Nodup ∧ (interchangeView p s).length = 32) ∧
  ∀ (p : Params) (s t : Snapshot), TextsAreOneToOne p → OnlyFaultLabels p s.faults → OnlyFaultLabels p t.faults →
    (interchangeView p s = interchangeView p t ↔
      { s with chargingState := 0 } = { t with chargingState := 0 } ∧
      (s.chargingState = t.chargingState ∨ (7 ≤ s.chargingState.toNat ∧ 7 ≤ t.chargingState.toNat)))

/-! ### The constants and the parameters -/

/-- 44_name_tables.md R251, 42_fault_bitmap.md R220, R223, R224, R226, 00_scope.md R8: whichever bit `FAULT_UNNAMED_BIT` is
(log entry 7), and whatever the other parameters are, the fault table has `NFAULT` entries, FLT_DEC's function reads exactly
those bits, FLT_ENC's accepts exactly the sets of their labels, and decodes to the set again. -/
def Obligations.FaultTableHasNfaultEntriesForAnyUnnamedBit : Prop :=
  ∀ p : Params,
    ((List.range 32).filter fun i => decide (IsFaultBit p i)).length = nfault ∧
    (∀ (w : BitVec 32) (i : Nat), (faultsOfWord p w).getLsbD i = (decide (IsFaultBit p i) && w.getLsbD i)) ∧
    (∀ F : LabelSet, OnlyFaultLabels p F → ∃ w, fltEncWord p F = .ok w ∧ faultsOfWord p w = F ∧
      ∀ i, w.getLsbD i = F.getLsbD i) ∧
    ∀ F : LabelSet, ¬ OnlyFaultLabels p F → fltEncWord p F = .error .faultNameError
end

