-- ==== Sys2Proof/Laws/State.lean ====
section
/-! SUPPORT. One lemma per field per update of the state, and the parameter values. -/

namespace Sys2Proof.Machine

@[simp] theorem params_decRound : params.decRound = .halfAwayFromZero := rfl
@[simp] theorem params_encRound : params.encRound = .halfAwayFromZero := rfl
@[simp] theorem params_encOverflow : params.encOverflow = .refuse := rfl
@[simp] theorem params_unknownPolicy : params.unknownPolicy = .unrecognizedCode := rfl
@[simp] theorem params_faultUnnamedBit : params.faultUnnamedBit = 31 := rfl
@[simp] theorem params_errPriority : params.errPriority = .rangeFirst := rfl

/-! ### The constants and the width parameters -/

@[simp] theorem two_pow_lenW : 2 ^ lenW = 256 := rfl
@[simp] theorem bufLen_eq : bufLen = 70 := rfl
@[simp] theorem faultLen_eq : faultLen = 4 := rfl
@[simp] theorem faultLo_eq : faultLo = 16 := rfl
@[simp] theorem faultHi_eq : faultHi = 31 := rfl
@[simp] theorem ncstate_eq : ncstate = 7 := rfl
@[simp] theorem brightMax_eq : brightMax = 100 := rfl
@[simp] theorem decUnit_eq : decUnit = 100 := rfl
@[simp] theorem two_pow_cw : 2 ^ cw = 1099511627776 := rfl
@[simp] theorem two_pow_lidW : 2 ^ lidW = 256 := rfl
@[simp] theorem maxLen_eq : maxLen = 255 := rfl

/-- Two error codes written as numbers: `simp` decides with it whether they are equal. -/
@[simp] theorem errCode_ofNat_inj (a b : Nat) : BitVec.ofNat errW a = BitVec.ofNat errW b ↔ a % 8 = b % 8 := by
  rw [← BitVec.toNat_inj, BitVec.toNat_ofNat, BitVec.toNat_ofNat]
  exact Iff.rfl

/-! ### The state -/

variable (s : State)

@[simp] theorem afterSuccess_op : s.afterSuccess.op = s.op := rfl
@[simp] theorem afterSuccess_inLen : s.afterSuccess.inLen = s.inLen := rfl
@[simp] theorem afterSuccess_inBytes : s.afterSuccess.inBytes = s.inBytes := rfl
@[simp] theorem afterSuccess_inSnap : s.afterSuccess.inSnap = s.inSnap := rfl
@[simp] theorem afterSuccess_inLid : s.afterSuccess.inLid = s.inLid := rfl
@[simp] theorem afterSuccess_err : s.afterSuccess.err = 0 := rfl
@[simp] theorem afterSuccess_outBytes : s.afterSuccess.outBytes = Config.freeBytes s.evals := rfl
@[simp] theorem afterSuccess_outSnap : s.afterSuccess.outSnap = Config.freeSnap s.evals := rfl
@[simp] theorem afterSuccess_outLid : s.afterSuccess.outLid = Config.freeLid s.evals := rfl
@[simp] theorem afterSuccess_evals : s.afterSuccess.evals = s.evals + 1 := rfl

@[simp] theorem afterError_op (c : ErrCode) : (s.afterError c).op = s.op := rfl
@[simp] theorem afterError_inLen (c : ErrCode) : (s.afterError c).inLen = s.inLen := rfl
@[simp] theorem afterError_inBytes (c : ErrCode) : (s.afterError c).inBytes = s.inBytes := rfl
@[simp] theorem afterError_inSnap (c : ErrCode) : (s.afterError c).inSnap = s.inSnap := rfl
@[simp] theorem afterError_inLid (c : ErrCode) : (s.afterError c).inLid = s.inLid := rfl
@[simp] theorem afterError_err (c : ErrCode) : (s.afterError c).err = c := rfl
@[simp] theorem afterError_evals (c : ErrCode) : (s.afterError c).evals = s.evals + 1 := rfl

/-- The shared error operation is the rule's error state. -/
@[simp] theorem raise_eq_afterError (k : ErrKind) : s.raise k = s.afterError (errCode k) := rfl

/-- The shared success operation is the rule's success state. -/
@[simp] theorem succeed_eq_afterSuccess : s.succeed = s.afterSuccess := rfl

theorem afterSuccess_sameInputs : s.sameInputs s.afterSuccess := ⟨rfl, rfl, rfl, rfl, rfl⟩

theorem afterError_sameInputs (c : ErrCode) : s.sameInputs (s.afterError c) := ⟨rfl, rfl, rfl, rfl, rfl⟩

@[simp] theorem driveBytes_outBytes (bs : List Byte) : (driveBytes bs s).outBytes = driveLanes bs s.outBytes := rfl
@[simp] theorem driveBytes_err (bs : List Byte) : (driveBytes bs s).err = s.err := rfl
@[simp] theorem driveSnapshot_outSnap (v : Snapshot × LabelId) : (driveSnapshot v s).outSnap = v.1 := rfl
@[simp] theorem driveSnapshot_outLid (v : Snapshot × LabelId) : (driveSnapshot v s).outLid = v.2 := rfl
@[simp] theorem driveSnapshot_err (v : Snapshot × LabelId) : (driveSnapshot v s).err = s.err := rfl
@[simp] theorem driveFaults_err (F : LabelSet) : (driveFaults F s).err = s.err := rfl
@[simp] theorem driveFaults_faults (F : LabelSet) : (driveFaults F s).outSnap.faults = F := rfl
@[simp] theorem driveStatus_err (v : Bool × BitVec 8) : (driveStatus v s).err = s.err := rfl
@[simp] theorem driveStatus_loadOn (v : Bool × BitVec 8) : (driveStatus v s).outSnap.loadOn = v.1 := rfl
@[simp] theorem driveStatus_brightness (v : Bool × BitVec 8) : (driveStatus v s).outSnap.brightness = v.2 := rfl
@[simp] theorem driveChargingState_err (v : Byte × LabelId) : (driveChargingState v s).err = s.err := rfl
@[simp] theorem driveChargingState_code (v : Byte × LabelId) :
    (driveChargingState v s).outSnap.chargingState = v.1 := rfl
@[simp] theorem driveChargingState_outLid (v : Byte × LabelId) : (driveChargingState v s).outLid = v.2 := rfl

/-- Everything the shared result operation can do: the rule's error state, or the value driven on the success state. -/
theorem settle_cases {α : Type} (drive : α → State → State) (r : Except ErrKind α) :
    (∃ k, r = .error k ∧ settle drive r s = s.afterError (errCode k)) ∨
    (∃ v, r = .ok v ∧ settle drive r s = drive v s.afterSuccess) := by
  cases r with
  | error k => exact .inl ⟨k, rfl, rfl⟩
  | ok v => exact .inr ⟨v, rfl, rfl⟩

@[simp] theorem settle_error {α : Type} (drive : α → State → State) (k : ErrKind) :
    settle drive (.error k) s = s.afterError (errCode k) := rfl

@[simp] theorem settle_ok {α : Type} (drive : α → State → State) (v : α) :
    settle drive (.ok v) s = drive v s.afterSuccess := rfl

end Sys2Proof.Machine
end

