-- ==== Sys2Proof/Laws/Operands.lean ====
section
/-! SUPPORT. Bytes to numbers and back: what the shared operand operations read and write. -/

namespace Sys2Proof.Machine

/-! ### Reading -/

@[simp] theorem byteAt_lt (B : List Byte) (i : Nat) : byteAt B i < 256 := (B.getD i 0).isLt

theorem memRead_one (B : List Byte) (a : Nat) : memRead B a 1 = byteAt B a := by simp [memRead]

theorem memRead_two (B : List Byte) (a : Nat) : memRead B a 2 = byteAt B a * 256 + byteAt B (a + 1) := by
  simp [memRead]

theorem memRead_four (B : List Byte) (a : Nat) :
    memRead B a 4 = memRead B a 2 * 65536 + memRead B (a + 2) 2 := by
  simp only [memRead]; ring_nf

theorem memRead_lt (B : List Byte) (a n : Nat) : memRead B a n < 256 ^ n := by
  induction n with
  | zero => simp [memRead]
  | succ n ih =>
    have := byteAt_lt B (a + n)
    simp only [memRead, pow_succ]; omega

/-- A read depends on the bytes it covers alone. -/
theorem memRead_congr {B C : List Byte} {a b n : Nat} (h : ∀ k < n, byteAt B (a + k) = byteAt C (b + k)) :
    memRead B a n = memRead C b n := by
  induction n with
  | zero => rfl
  | succ n ih => simp only [memRead, ih fun k hk => h k (by omega), h n (by omega)]

/-! ### Writing -/

@[simp] theorem bigEndian_length (n v : Nat) : (bigEndian n v).length = n := by
  induction n with
  | zero => rfl
  | succ n ih => simp [bigEndian, ih]

/-- What is written is read back, narrowed to its width. -/
theorem memRead_bigEndian_append (pre post : List Byte) (n v : Nat) :
    memRead (pre ++ bigEndian n v ++ post) pre.length n = v % 256 ^ n := by
  suffices h : ∀ j ≤ n, memRead (pre ++ bigEndian n v ++ post) pre.length j = v / 256 ^ (n - j) % 256 ^ j by
    simpa using h n le_rfl
  have hget : ∀ m k : Nat, k < m → (bigEndian m v).getD k 0 = BitVec.ofNat 8 (v / 256 ^ (m - 1 - k)) := by
    intro m
    induction m with
    | zero => intro k hk; omega
    | succ m ih =>
      intro k hk
      cases k with
      | zero => simp [bigEndian]
      | succ k =>
        have := ih k (by omega)
        simp only [bigEndian, List.getD_cons_succ, this]
        congr 3; omega
  intro j
  induction j with
  | zero => intro _; simp [memRead, Nat.mod_one]
  | succ j ih =>
    intro hj
    have hb : byteAt (pre ++ bigEndian n v ++ post) (pre.length + j) = v / 256 ^ (n - (j + 1)) % 256 := by
      have h1 : (pre ++ bigEndian n v ++ post).getD (pre.length + j) 0 = (bigEndian n v).getD j 0 := by
        simp only [List.getD_eq_getElem?_getD, List.append_assoc]
        rw [List.getElem?_append_right (by omega), List.getElem?_append_left (by simp; omega)]
        simp
      simp only [byteAt, h1, hget n j (by omega), BitVec.toNat_ofNat]
      congr 3; omega
    simp only [memRead, ih (by omega), hb]
    have hp : 256 ^ (n - j) = 256 ^ (n - (j + 1)) * 256 := by rw [← pow_succ]; congr 1; omega
    rw [hp, ← Nat.div_div_eq_div_mul, pow_succ, Nat.mul_comm (256 ^ j) 256, Nat.mod_mul]
    omega

theorem memWrite_at_end (out : List Byte) (n v : Nat) : memWrite out out.length n v = out ++ bigEndian n v := by
  simp [memWrite]

/-! ### Ports -/

@[simp] theorem lane_lt (v : Lanes) (i : Nat) : lane v i < 256 := (v.toList.getD i 0).isLt

theorem be16_eq_memRead (v : Lanes) (i : Nat) : be16 v i = memRead v.toList i 2 := by
  simp [memRead_two, be16, lane, byteAt]

theorem be32_eq_memRead (v : Lanes) (i : Nat) : be32 v i = memRead v.toList i 4 := by
  simp [memRead_four, be32, be16_eq_memRead]

@[simp] theorem be16_lt (v : Lanes) (i : Nat) : be16 v i < 65536 := by
  rw [be16_eq_memRead]; exact memRead_lt _ _ 2

@[simp] theorem be32_lt (v : Lanes) (i : Nat) : be32 v i < 4294967296 := by
  rw [be32_eq_memRead]; exact memRead_lt _ _ 4

@[simp] theorem driveLanes_toList (bs : List Byte) (rest : Lanes) :
    (driveLanes bs rest).toList = (bs ++ rest.toList.drop bs.length).take 70 := rfl

/-- Driven lanes hold the bytes; the lanes past them keep what they held. -/
theorem lane_driveLanes (bs : List Byte) (rest : Lanes) (i : Nat) (hi : i < 70) :
    lane (driveLanes bs rest) i = if i < bs.length then byteAt bs i else lane rest i := by
  simp only [lane, byteAt, driveLanes_toList, List.getD_eq_getElem?_getD, List.getElem?_take, hi, if_true]
  split
  · rw [List.getElem?_append_left ‹_›]
  · rw [List.getElem?_append_right (by omega), List.getElem?_drop]
    congr 4; omega

/-- Seventy bytes fill the port. -/
theorem driveLanes_full (bs : List Byte) (rest : Lanes) (h : bs.length = 70) : (driveLanes bs rest).toList = bs := by
  simp [h]

/-- Ports are equal when their lanes are. -/
theorem lanes_ext {v w : Lanes} (h : ∀ i < 70, lane v i = lane w i) : v = w := by
  apply Vector.ext
  intro i hi
  have := h i hi
  simp only [lane, List.getD_eq_getElem?_getD, Vector.getElem?_toList, hi, Vector.getElem?_eq_getElem,
    Option.getD_some] at this
  exact BitVec.eq_of_toNat_eq this

@[simp] theorem byteOperand_length (s : State) : (byteOperand s).length = s.inLen.toNat := by
  have := s.inLen.isLt
  rw [byteOperand, List.length_take, List.length_append, Vector.length_toList, List.length_replicate]
  simp only [maxLen, lenW] at *
  omega

/-- A byte operand of at most 70 bytes is the first `in_len` lanes. -/
theorem byteAt_byteOperand (s : State) (i : Nat) (hi : i < s.inLen.toNat) (h70 : i < 70) :
    byteAt (byteOperand s) i = lane s.inBytes i := by
  simp only [byteAt, byteOperand, lane, List.getD_eq_getElem?_getD, List.getElem?_take, hi, if_true]
  rw [List.getElem?_append_left (by simpa using h70)]

theorem byteOperand_of_full (s : State) (h : s.inLen = 70) : byteOperand s = s.inBytes.toList := by
  have hl : s.inLen.toNat = s.inBytes.toList.length := by rw [h, Vector.length_toList]; rfl
  rw [byteOperand, hl, List.take_left']
  rfl

@[simp] theorem oneByteOperand_toNat (s : State) : (oneByteOperand s).toNat = lane s.inBytes 0 := by
  simp [oneByteOperand, lane]

end Sys2Proof.Machine
end

