-- ==== Sys2Proof/Laws/SmallCodecs.lean ====
section
/-! SUPPORT. One spec lemma per function of the small codecs. -/

namespace Sys2Proof.Machine

/-! ### Fault word -/

/-- With this model's unnamed bit the fault bits are 16 to 30. -/
theorem isFaultBit_params (i : Nat) : IsFaultBit params i ↔ 16 ≤ i ∧ i ≤ 30 := by
  simp only [IsFaultBit, params_faultUnnamedBit]; omega

theorem decide_isFaultBit (i : Nat) : decide (IsFaultBit params i) = decide (16 ≤ i ∧ i ≤ 30) :=
  decide_eq_decide.mpr (isFaultBit_params i)

theorem onlyFaultLabels_iff (F : LabelSet) :
    OnlyFaultLabels params F ↔ ∀ i, F.getLsbD i = true → 16 ≤ i ∧ i ≤ 30 :=
  forall_congr' fun i => imp_congr_right fun _ => isFaultBit_params i

theorem getLsbD_faultRange (i : Nat) : faultRange.getLsbD i = decide (16 ≤ i ∧ i ≤ 31) := by
  by_cases h : i < 32
  · interval_cases i <;> decide
  · rw [BitVec.getLsbD_of_ge _ _ (by omega)]; simp; omega

/-- The mask is the table of the rules, whichever bit has no entry. -/
theorem getLsbD_faultMask_eq (p : Params) (i : Nat) : (faultMask p).getLsbD i = decide (IsFaultBit p i) := by
  have hu := p.unnamedInRange
  rw [faultMask, BitVec.getLsbD_and, getLsbD_faultRange, BitVec.getLsbD_not, BitVec.getLsbD_shiftLeft, BitVec.getLsbD_one,
    Bool.eq_iff_iff]
  simp at *
  omega

theorem getLsbD_faultsOfWord_eq (p : Params) (w : BitVec 32) (i : Nat) :
    (faultsOfWord p w).getLsbD i = (decide (IsFaultBit p i) && w.getLsbD i) := by
  simp only [faultsOfWord, BitVec.getLsbD_setWidth, BitVec.getLsbD_and, getLsbD_faultMask_eq, two_pow_lidW]
  by_cases h : IsFaultBit p i
  · have : i < 256 := by have := h.2.1; omega
    simp [h, this]
  · simp [h]

theorem getLsbD_faultsOfWord (w : BitVec 32) (i : Nat) :
    (faultsOfWord params w).getLsbD i = (decide (16 ≤ i ∧ i ≤ 30) && w.getLsbD i) := by
  rw [getLsbD_faultsOfWord_eq, decide_isFaultBit]

theorem onlyFaultLabels_faultsOfWord (w : BitVec 32) : OnlyFaultLabels params (faultsOfWord params w) := by
  intro i hi
  rw [getLsbD_faultsOfWord, Bool.and_eq_true, decide_eq_true_eq] at hi
  exact (isFaultBit_params i).mpr hi.1

/-- The table check is the rule's condition on the set. -/
theorem allFaultLabels_iff (p : Params) (F : LabelSet) : allFaultLabels p F = true ↔ OnlyFaultLabels p F := by
  simp only [allFaultLabels, beq_iff_eq, OnlyFaultLabels]
  constructor
  · intro h i hi
    by_contra hn
    have hlt : i < 256 := BitVec.lt_of_getLsbD hi
    have := congrArg (fun v : LabelSet => v.getLsbD i) h
    simp [getLsbD_faultMask_eq, hlt, hn] at this
    simp [BitVec.getLsbD_eq_getElem hlt, this] at hi
  · intro h
    apply BitVec.eq_of_getLsbD_eq
    intro i hi
    by_cases hF : F.getLsbD i = true
    · have := h i hF
      simp [hF, getLsbD_faultMask_eq, this]
    · simp [Bool.eq_false_iff.mpr hF]

theorem fltDec_spec (W : List Byte) :
    fltDec params W =
      if W.length = 4 then .ok (faultsOfWord params (BitVec.ofNat 32 (memRead W 0 4))) else .error .lengthError := by
  by_cases h : W.length = 4 <;> simp [fltDec, faultLen, h]

theorem fltEncWord_spec (p : Params) (F : LabelSet) [Decidable (OnlyFaultLabels p F)] :
    fltEncWord p F = if OnlyFaultLabels p F then .ok (F.setWidth 32) else .error .faultNameError := by
  simp only [fltEncWord, allFaultLabels_iff]

theorem memWrite_nil (v : Nat) : memWrite [] 0 4 v = bigEndian 4 v := by simp [memWrite]

theorem fltEnc_spec (F : LabelSet) [Decidable (OnlyFaultLabels params F)] :
    fltEnc params F =
      if OnlyFaultLabels params F then .ok (bigEndian 4 (F.setWidth 32).toNat) else .error .faultNameError := by
  rw [fltEnc, fltEncWord_spec]
  by_cases h : OnlyFaultLabels params F <;> simp [h, memWrite_nil]

/-- The flag word of a set of fault labels has the set's bits and no other. -/
theorem testBit_faultWord (F : LabelSet) (h : OnlyFaultLabels params F) (i : Nat) :
    (F.setWidth 32).toNat.testBit i = (decide (16 ≤ i ∧ i ≤ 30) && F.getLsbD i) := by
  rw [BitVec.testBit_toNat, BitVec.getLsbD_setWidth]
  by_cases hF : F.getLsbD i = true
  · have := (isFaultBit_params i).mp (h i hF)
    have h32 : i < 32 := by omega
    simp [hF, h32, this]
  · simp [Bool.eq_false_iff.mpr hF]

/-! ### Status byte -/

theorem status_byte_cases : ∀ b : Byte, (b.getLsbD 7 = decide (128 ≤ b.toNat)) ∧ (b &&& 0x7F#8).toNat = b.toNat % 128 := by
  decide

theorem stsDec_spec (b : Byte) : ∃ bright : BitVec 8,
    stsDec b = .ok (decide (128 ≤ b.toNat), bright) ∧ bright.toNat = b.toNat % 128 :=
  ⟨b &&& 0x7F#8, by rw [stsDec, (status_byte_cases b).1]; rfl, (status_byte_cases b).2⟩

theorem status_pack : ∀ (on : Bool) (b : BitVec 8), b.toNat ≤ 100 →
    ((if on then 0x80#8 else 0#8) ||| b).toNat = (if on then 128 else 0) + b.toNat := by decide

theorem stsEnc_spec (on : Bool) (b : BitVec 8) :
    (b.toNat ≤ 100 → ∃ c : Byte, stsEnc on b = .ok c ∧ c.toNat = (if on then 128 else 0) + b.toNat) ∧
    (100 < b.toNat → stsEnc on b = .error .rangeError) := by
  refine ⟨fun h => ⟨(if on then 0x80#8 else 0#8) ||| b, ?_, status_pack on b h⟩, fun h => ?_⟩
  · have : ¬ brightMax < b.toNat := by simpa using h
    simp [stsEnc, this]
  · have : brightMax < b.toNat := h
    simp [stsEnc, this]

/-! ### Charging state -/

/-- With this model's policy a code decodes to the state its byte carries. -/
@[simp] theorem decodedState_params (code : Byte) : decodedState params code = chargingStateOfCode code := rfl

theorem codeOfChargingState_ofCode (code : Byte) : codeOfChargingState (chargingStateOfCode code) = code := by
  unfold chargingStateOfCode; split <;> simp [codeOfChargingState]

theorem labelOfChargingState_toNat (code : Byte) :
    (labelOfChargingState (chargingStateOfCode code)).toNat = if code.toNat ≤ 6 then code.toNat else 7 := by
  unfold chargingStateOfCode
  have := code.isLt
  split
  · next h => rw [if_pos (Nat.le_of_lt_succ h)]; simp [labelOfChargingState]
  · next h => rw [if_neg fun hle => h (Nat.lt_succ_of_le hle)]; rfl

/-- At this model's `LID_W` a label identifier is a byte. -/
theorem cstEnc_spec (lid : LabelId) :
    cstEnc lid = if lid.toNat ≤ 6 then .ok lid else .error .faultNameError := by
  simp only [cstEnc, ncstate, Nat.lt_succ_iff, BitVec.ofNat_toNat, BitVec.setWidth_eq]

end Sys2Proof.Machine
end

