-- ==== Sys2Proof/Laws/Block.lean ====
section
/-! SUPPORT. The register block: what DECODE's and ENCODE's functions can do. -/

namespace Sys2Proof.Machine

/-! ### Scaling -/

@[simp] theorem hundredthsOfRaw_tenth (p : Params) (raw : Nat) : hundredthsOfRaw p .tenth raw = raw * 10 := by
  cases h : p.decRound <;> simp [hundredthsOfRaw, roundDiv, scaleFactor, h]

@[simp] theorem hundredthsOfRaw_hundredth (p : Params) (raw : Nat) : hundredthsOfRaw p .hundredth raw = raw := by
  cases h : p.decRound <;> simp [hundredthsOfRaw, roundDiv, scaleFactor, h]

@[simp] theorem hundredthsOfRaw_unit (p : Params) (raw : Nat) : hundredthsOfRaw p .unit raw = raw * 100 := by
  cases h : p.decRound <;> simp [hundredthsOfRaw, roundDiv, scaleFactor, h]

@[simp] theorem hundredthsOfRaw_tenThousandth (raw : Nat) :
    hundredthsOfRaw params .tenThousandth raw = (raw + 50) / 100 := by
  simp [hundredthsOfRaw, roundDiv, scaleFactor]

@[simp] theorem rawOfHundredths_hundredth (p : Params) (c : Nat) : rawOfHundredths p .hundredth c = c := by
  cases h : p.encRound <;> simp [rawOfHundredths, roundDiv, scaleFactor, h]

@[simp] theorem rawOfHundredths_tenThousandth (p : Params) (c : Nat) :
    rawOfHundredths p .tenThousandth c = c * 100 := by
  cases h : p.encRound <;> simp [rawOfHundredths, roundDiv, scaleFactor, h]

@[simp] theorem rawOfHundredths_tenth (c : Nat) : rawOfHundredths params .tenth c = (c + 5) / 10 := by
  simp [rawOfHundredths, roundDiv, scaleFactor]

@[simp] theorem rawOfHundredths_unit (c : Nat) : rawOfHundredths params .unit c = (c + 50) / 100 := by
  simp [rawOfHundredths, roundDiv, scaleFactor]

/-! ### Decoding -/

/-- DECODE's function, with the contained codecs worked out. -/
theorem decodeBlock_spec (B : List Byte) (h : B.length = 70) :
    decodeBlock params B = .ok
      (snapshotOfBlock params B
          ((BitVec.ofNat 8 (byteAt B 64)).getLsbD 7, BitVec.ofNat 8 (byteAt B 64) &&& 0x7F)
          (BitVec.ofNat 8 (byteAt B 65)) (faultsOfWord params (BitVec.ofNat 32 (memRead B 66 4))),
        labelOfChargingState (chargingStateOfCode (BitVec.ofNat 8 (byteAt B 65)))) := by
  have hm : memRead ((B.drop 66).take 4) 0 4 = memRead B 66 4 := by
    apply memRead_congr
    intro k hk
    simp only [byteAt, List.getD_eq_getElem?_getD, Nat.zero_add, List.getElem?_take, hk, if_true, List.getElem?_drop]
  have hl : ((B.drop 66).take 4).length = faultLen := by simp [h]
  simp only [decodeBlock, h, ne_eq, not_true_eq_false, if_false, stsDec, cstDec, fltDec, hl, hm, memRead_one,
    bind, Except.bind, pure, Except.pure, decodedState_params, codeOfChargingState_ofCode]

theorem decodeBlock_length (B : List Byte) (h : B.length ≠ 70) : decodeBlock params B = .error .lengthError := by
  simp [decodeBlock, bufLen, h]

/-! ### Encoding -/

/-- Every write starts where the one before it ends. -/
def Contiguous : Nat → List FieldWrite → Prop
  | _, []      => True
  | a, w :: ws => w.addr = a ∧ Contiguous (a + w.width) ws

theorem blockWrites_contiguous (p : Params) (s : Snapshot) (status : Byte) (flags : BitVec 32) :
    Contiguous 0 (blockWrites p s status flags) := by
  simp [blockWrites, Contiguous, plainWrite, decWrite]

theorem foldl_contiguous (ws : List FieldWrite) : ∀ out : List Byte, Contiguous out.length ws →
    ws.foldl (fun out w => memWrite out w.addr w.width w.value) out =
      out ++ ws.flatMap fun w => bigEndian w.width w.value := by
  induction ws with
  | nil => simp
  | cons w ws ih =>
    intro out h
    obtain ⟨ha, hr⟩ := h
    rw [List.foldl_cons, ha, memWrite_at_end, ih _ (by simpa using hr)]
    simp

/-- The assembled buffer is the writes' bytes one after another. -/
theorem assemble_blockWrites (p : Params) (s : Snapshot) (status : Byte) (flags : BitVec 32) :
    assemble (blockWrites p s status flags) =
      (blockWrites p s status flags).flatMap fun w => bigEndian w.width w.value := by
  simpa [assemble] using foldl_contiguous _ [] (blockWrites_contiguous p s status flags)

theorem memRead_flatMap (ws : List FieldWrite) : ∀ pre : List Byte, Contiguous pre.length ws → ∀ w ∈ ws,
    memRead (pre ++ ws.flatMap fun w => bigEndian w.width w.value) w.addr w.width = w.value % 256 ^ w.width := by
  induction ws with
  | nil => simp
  | cons x ws ih =>
    intro pre h w hw
    obtain ⟨ha, hr⟩ := h
    rcases List.mem_cons.mp hw with rfl | hw
    · rw [ha, List.flatMap_cons, ← List.append_assoc]
      exact memRead_bigEndian_append _ _ _ _
    · rw [List.flatMap_cons, ← List.append_assoc]
      exact ih _ (by simpa using hr) w hw

/-- Every field is stored, narrowed to its register, where the layout puts it. -/
theorem memRead_assemble (p : Params) (s : Snapshot) (status : Byte) (flags : BitVec 32) :
    ∀ w ∈ blockWrites p s status flags,
      memRead (assemble (blockWrites p s status flags)) w.addr w.width = w.value % 256 ^ w.width := by
  rw [assemble_blockWrites]
  simpa using memRead_flatMap _ [] (blockWrites_contiguous p s status flags)

@[simp] theorem assemble_length (p : Params) (s : Snapshot) (status : Byte) (flags : BitVec 32) :
    (assemble (blockWrites p s status flags)).length = 70 := by
  rw [assemble_blockWrites]
  simp [blockWrites, plainWrite, decWrite]

/-- `Representable` does not look at the status byte or the flags. -/
theorem representable_iff (s : Snapshot) : representable params s = true ↔ FitsRegisters s := by
  simp only [representable, blockWrites, plainWrite, decWrite, List.all_append, List.all_cons, List.all_nil,
    rawOfHundredths_tenth, rawOfHundredths_hundredth, rawOfHundredths_unit, rawOfHundredths_tenThousandth,
    Bool.and_eq_true, Bool.or_eq_true, decide_eq_true_eq, Bool.not_true, Bool.not_false, FitsRegisters]
  simp only [Bool.false_eq_true, false_or, true_or, true_and, and_true]
  omega

/-- The status byte and the flag word, or the error that comes first. -/
theorem statusAndFlags_spec (s : Snapshot) :
    (s.brightness.toNat ≤ 100 → OnlyFaultLabels params s.faults → ∃ st : Byte,
      statusAndFlags params s = .ok (st, s.faults.setWidth 32) ∧
      st.toNat = (if s.loadOn then 128 else 0) + s.brightness.toNat) ∧
    (100 < s.brightness.toNat → statusAndFlags params s = .error .rangeError) ∧
    (s.brightness.toNat ≤ 100 → ¬ OnlyFaultLabels params s.faults → statusAndFlags params s = .error .faultNameError) := by
  classical
  obtain ⟨hok, hbad⟩ := stsEnc_spec s.loadOn s.brightness
  refine ⟨fun hb hF => ?_, fun hb => ?_, fun hb hF => ?_⟩
  · obtain ⟨st, h1, h2⟩ := hok hb
    refine ⟨st, ?_, h2⟩
    simp only [statusAndFlags, params_errPriority, h1, fltEncWord_spec, hF, if_true]
    rfl
  · simp only [statusAndFlags, params_errPriority, hbad hb]
    rfl
  · obtain ⟨st, h1, -⟩ := hok hb
    simp only [statusAndFlags, params_errPriority, h1, fltEncWord_spec, hF, if_false]
    rfl

/-- ENCODE's function on a Snapshot that has no error of its own: the 70 bytes of its writes. -/
theorem encodeBlock_ok (s : Snapshot) (hb : s.brightness.toNat ≤ 100) (hF : OnlyFaultLabels params s.faults) :
    ∃ st : Byte, st.toNat = (if s.loadOn then 128 else 0) + s.brightness.toNat ∧
      encodeBlock params s = .ok (assemble (blockWrites params s st (s.faults.setWidth 32))) := by
  obtain ⟨st, h1, h2⟩ := (statusAndFlags_spec s).1 hb hF
  refine ⟨st, h2, ?_⟩
  have hl := assemble_length params s st (s.faults.setWidth 32)
  simp only [encodeBlock, h1, bind, Except.bind]
  rw [if_neg (by rw [hl]; exact fun h => h rfl)]

theorem encodeBlock_range (s : Snapshot) (hb : 100 < s.brightness.toNat) :
    encodeBlock params s = .error .rangeError := by
  simp only [encodeBlock, (statusAndFlags_spec s).2.1 hb]; rfl

theorem encodeBlock_name (s : Snapshot) (hb : s.brightness.toNat ≤ 100) (hF : ¬ OnlyFaultLabels params s.faults) :
    encodeBlock params s = .error .faultNameError := by
  simp only [encodeBlock, (statusAndFlags_spec s).2.2 hb hF]; rfl

theorem encodeResult_fits (s : Snapshot) (h : FitsRegisters s) : encodeResult params s = some (encodeBlock params s) :=
  if_pos ((representable_iff s).mpr h)

theorem encodeResult_unfit (s : Snapshot) (h : ¬ FitsRegisters s) : encodeResult params s = none := by
  have : representable params s = false := by simpa [← representable_iff] using h
  simp [encodeResult, this]

end Sys2Proof.Machine
end

