-- ==== Sys2Proof/Laws/Evaluations.lean ====
section
/-! SUPPORT. What an evaluation of each operation drives, in terms of the lanes of its operand. -/

namespace Sys2Proof.Machine

theorem inLen_eq_iff {s : State} {n : Nat} (hn : n < 256) : s.inLen = BitVec.ofNat 8 n ↔ s.inLen.toNat = n := by
  constructor
  · intro h; rw [h, BitVec.toNat_ofNat]; exact Nat.mod_eq_of_lt hn
  · intro h; apply BitVec.eq_of_toNat_eq; rw [h, BitVec.toNat_ofNat]; exact (Nat.mod_eq_of_lt hn).symm

/-! ### Fields of a full operand -/

theorem int16At_toNat (v : Lanes) (i : Nat) : (int16At v.toList i).toNat = be16 v i := by
  rw [int16At, ← be16_eq_memRead, BitVec.toNat_ofNat]; exact Nat.mod_eq_of_lt (be16_lt _ _)

theorem int8sAt_toInt (v : Lanes) (i : Nat) :
    (int8sAt v.toList i).toInt = if lane v i < 128 then (lane v i : Int) else (lane v i : Int) - 256 := by
  have h : lane v i < 256 := lane_lt v i
  rw [int8sAt, memRead_one, show byteAt v.toList i = lane v i from rfl, sext8, BitVec.toInt_ofInt]
  split <;> exact Int.bmod_eq_of_le (by omega) (by omega)

/-- A DEC field whose hundredths fit the carrier. -/
theorem decAt_toNat (p : Params) (v : Lanes) (sc : Scale) (o n : Nat)
    (h : hundredthsOfRaw p sc (memRead v.toList o n) < 2 ^ 40) :
    (decAt p v.toList sc o n).toNat = hundredthsOfRaw p sc (memRead v.toList o n) := by
  rw [decAt, BitVec.toNat_ofNat, Nat.mod_eq_of_lt h]

/-! ### DECODE and ENCODE -/

/-- What DECODE drives for the 70 lanes `v`. -/
def decodedLanes (v : Lanes) : Snapshot × LabelId :=
  (snapshotOfBlock params v.toList
      ((BitVec.ofNat 8 (lane v 64)).getLsbD 7, BitVec.ofNat 8 (lane v 64) &&& 0x7F)
      (BitVec.ofNat 8 (lane v 65)) (faultsOfWord params (BitVec.ofNat 32 (be32 v 66))),
    labelOfChargingState (chargingStateOfCode (BitVec.ofNat 8 (lane v 65))))

theorem execDecode_of_full (s : State) (h : s.inLen = 70) :
    exec .decode s = .next (driveSnapshot (decodedLanes s.inBytes) s.afterSuccess) := by
  have hB := byteOperand_of_full s h
  show execDecode s = _
  rw [execDecode, hB, decodeBlock_spec _ (by simp), settle_ok, decodedLanes, be32_eq_memRead]
  rfl

theorem execEncode_of_fits (s : State) (h : FitsRegisters s.inSnap) :
    exec .encode s = .next (settle driveBytes (encodeBlock params s.inSnap) s) := by
  show execEncode s = _
  rw [execEncode, encodeResult_fits _ h]

/-- On an encodable Snapshot the 70 lanes are the assembled writes. -/
theorem execEncode_of_encodable (s : State) (h : IsEncodable params s.inSnap) : ∃ st : Byte, ∃ out : Lanes,
    st.toNat = (if s.inSnap.loadOn then 128 else 0) + s.inSnap.brightness.toNat ∧
    exec .encode s = .next { s.afterSuccess with outBytes := out } ∧
    out.toList = assemble (blockWrites params s.inSnap st (s.inSnap.faults.setWidth 32)) := by
  obtain ⟨st, h1, h2⟩ := encodeBlock_ok s.inSnap h.2.1 h.2.2
  refine ⟨st, driveLanes (assemble (blockWrites params s.inSnap st (s.inSnap.faults.setWidth 32)))
    (Config.freeBytes s.evals), h1, ?_, driveLanes_full _ _ (assemble_length _ _ _ _)⟩
  rw [execEncode_of_fits _ h.1, h2]; rfl

/-! ### The small operations -/

theorem memRead_four_of_inLen (s : State) (h : s.inLen = 4) : memRead (byteOperand s) 0 4 = be32 s.inBytes 0 := by
  have h4 : s.inLen.toNat = 4 := by rw [h]; rfl
  rw [be32_eq_memRead]
  apply memRead_congr
  intro k hk
  rw [byteAt_byteOperand _ _ (by omega) (by omega)]; rfl

theorem execFltDec_of_four (s : State) (h : s.inLen = 4) :
    exec .fltDec s =
      .next (driveFaults (faultsOfWord params (BitVec.ofNat 32 (be32 s.inBytes 0))) s.afterSuccess) := by
  have h4 : s.inLen.toNat = 4 := by rw [h]; rfl
  show execFltDec s = _
  rw [execFltDec, fltDec_spec, if_pos (by rw [byteOperand_length, h4]), memRead_four_of_inLen s h]; rfl

theorem execFltEnc_of_labels (s : State) (h : OnlyFaultLabels params s.inSnap.faults) :
    exec .fltEnc s = .next (driveBytes (bigEndian 4 (s.inSnap.faults.setWidth 32).toNat) s.afterSuccess) := by
  classical
  show execFltEnc s = _
  rw [execFltEnc, fltEnc_spec, if_pos h]; rfl

/-- Lanes past the driven bytes, and past the port, keep what they held. -/
theorem lane_driveLanes_past (bs : List Byte) (v : Lanes) (k : Nat) (hk : bs.length ≤ k) :
    lane (driveLanes bs v) k = lane v k := by
  by_cases h : k < 70
  · rw [lane_driveLanes _ _ _ h, if_neg (by omega)]
  · have : ∀ w : Lanes, lane w k = 0 := by
      intro w
      simp [lane, List.getD_eq_getElem?_getD, show ¬ k < 70 from h]
    rw [this, this]

/-- A word driven on lanes 0 to 3 is read back. -/
theorem be32_driveLanes (n : Nat) (h : n < 4294967296) (v : Lanes) : be32 (driveLanes (bigEndian 4 n) v) 0 = n := by
  rw [be32_eq_memRead, driveLanes_toList]
  have h2 : (bigEndian 4 n ++ List.drop (bigEndian 4 n).length v.toList).take 70 =
      bigEndian 4 n ++ (v.toList.drop 4).take 66 := by
    simp [List.take_append]
  have := memRead_bigEndian_append [] ((v.toList.drop 4).take 66) 4 n
  simp only [List.nil_append, List.length_nil] at this
  rw [h2, this]; omega

end Sys2Proof.Machine
end

