-- ==== Sys2Proof/Laws/PerInstr.lean ====
section
/-! SUPPORT. Statements made per instruction: an operation's code is its own. -/

namespace Sys2Proof.Laws.SelectRoundTrip

/-- The operation is well-formed, its code selects it, and the byte that holds its code decodes to it, whatever follows
(30_encoding.md R80, R97). -/
def Statement (i : Instr) : Prop :=
  i.wellFormed = true ∧ decodeOp (encodeOp i) = i ∧ ∀ rest : List Byte, Sys2Proof.decode (Sys2Proof.encode i ++ rest) = .ok (i, rest)

theorem decode : Statement .decode := ⟨rfl, rfl, fun _ => rfl⟩
theorem encode : Statement .encode := ⟨rfl, rfl, fun _ => rfl⟩
theorem fltDec : Statement .fltDec := ⟨rfl, rfl, fun _ => rfl⟩
theorem fltEnc : Statement .fltEnc := ⟨rfl, rfl, fun _ => rfl⟩
theorem stsDec : Statement .stsDec := ⟨rfl, rfl, fun _ => rfl⟩
theorem stsEnc : Statement .stsEnc := ⟨rfl, rfl, fun _ => rfl⟩
theorem cstDec : Statement .cstDec := ⟨rfl, rfl, fun _ => rfl⟩
theorem cstEnc : Statement .cstEnc := ⟨rfl, rfl, fun _ => rfl⟩

end Sys2Proof.Laws.SelectRoundTrip
end

