-- ==== Sys2Proof/Tests/Slice0.lean ====
section
/-! SUPPORT. Tests of the model, with expected results from the spec's own vectors (95_test_vectors.md), and for each
statement that has hypotheses a witness that meets them. -/

set_option maxRecDepth 20000

namespace Sys2Proof.Tests

open Sys2Proof Sys2Proof.Machine

/-! ### Helpers -/

/-- The evaluation `e`, presented at reset. -/
def given (e : Evaluation) : State := State.reset.present e

/-- The step answers a next state in which `f` holds. -/
def answers (e : Evaluation) (f : State → Bool) : Bool :=
  match step (given e) with
  | .next t    => f t
  | .fault _   => false
  | .refused _ => false

/-- `e` ends in the error with code `code`. -/
def errs (e : Evaluation) (code : ErrCode) : Bool := answers e fun t => t.err == code

/-- `e` succeeds and drives these bytes from lane `a` on. -/
def drives (e : Evaluation) (a : Nat) (bytes : List Nat) : Bool :=
  answers e fun t => t.err == 0 && (List.range bytes.length).map (fun k => lane t.outBytes (a + k)) == bytes

/-- The step refuses `e`. -/
def refuses (e : Evaluation) : Bool :=
  match step (given e) with
  | .next _    => false
  | .fault _   => false
  | .refused r => r == .encodeNotRepresentable

/-- The set of these labels. -/
def labels (ls : List Nat) : LabelSet := ls.foldl (fun F l => F ||| (1 <<< l)) 0

/-- Sample S2 of 95_test_vectors.md 2.2. -/
def bytesS2 : List Byte :=
  [0x00, 0x57, 0x00, 0x84, 0x02, 0x0B, 0x1C, 0xFB, 0x00, 0x83, 0x00, 0x91, 0x00, 0x13, 0x00, 0xBB, 0x01, 0x74, 0x00, 0x45] ++
  [0xAB, 0xCD, 0x00, 0x79, 0x00, 0x90, 0x04, 0x1A, 0x01, 0x36, 0x00, 0x97, 0x00, 0x28, 0x00, 0x1F, 0x00, 0x0C, 0x10, 0x36] ++
  [0x06, 0x71, 0x01, 0x9C, 0x00, 0x03, 0x01, 0x20, 0x00, 0x01, 0x11, 0x70, 0x00, 0x00, 0xA1, 0x12, 0x00, 0x8B, 0x36, 0x80] ++
  [0x00, 0x4C, 0x4B, 0x72, 0x9E, 0x02, 0x00, 0x22, 0x12, 0x34]

/-- Sample S3 of 95_test_vectors.md 2.3. -/
def bytesS3 : List Byte := List.replicate 70 0xFF

/-- The Snapshot `s1` of 95_test_vectors.md 2.1. -/
def snapOne : Snapshot := { zeroSnapshot with soc := 100, batteryVoltage := 1360, controllerTemperature := 25 }

/-- The Snapshot `s1'` of 95_test_vectors.md, program 3: off-grid values, and every kind of field. -/
def snapEdited : Snapshot :=
  { snapOne with
    batteryVoltage := 1365, loadPower := 1250, powerGeneratedToday := 123, loadOn := true, brightness := 50,
    chargingState := 5, faults := labels [0x12] }

/-- Decimal fields at the largest value of 41_encoder.md R175's table, brightness at its limit, both end labels. -/
def snapEdge : Snapshot :=
  { zeroSnapshot with
    soc := 65535, controllerTemperature := 0x80, batteryTemperature := 0x7F
    batteryVoltage := 655354, loadVoltage := 5, chargingCurrent := 65535, loadPower := 6553549, chargingPower := 50
    totalChargingAmpHours := 429496729549, totalDischargingAmpHours := 49
    powerGeneratedToday := 655, powerConsumedToday := 1, cumulativePowerGenerated := 42949672
    brightness := 100, chargingState := 255, faults := labels [0x10, 0x1E] }

theorem encodable_of {s : Snapshot} (hr : representable params s = true) (hb : s.brightness.toNat ≤ 100)
    (hF : allFaultLabels params s.faults = true) : IsEncodable params s :=
  ⟨(representable_iff s).mp hr, hb, (allFaultLabels_iff _ _).mp hF⟩

theorem notOnly_of {F : LabelSet} (h : allFaultLabels params F = false) : ¬ OnlyFaultLabels params F := by
  rw [← allFaultLabels_iff, h]; exact Bool.false_ne_true

theorem noFaults_only : OnlyFaultLabels params 0 := (allFaultLabels_iff _ 0).mp (by decide)

theorem unfit_of {s : Snapshot} (h : representable params s = false) : ¬ FitsRegisters s := by
  rw [← representable_iff, h]; exact Bool.false_ne_true

theorem edge_encodable : IsEncodable params snapEdge := encodable_of (by decide) (by decide) (by decide)
theorem edited_encodable : IsEncodable params snapEdited := encodable_of (by decide) (by decide) (by decide)

/-! ### Well-formedness: 256 bytes cannot be presented (10_state.md R35) -/

theorem test_wellFormed_255 : (Evaluation.decode (List.replicate 255 0)).wellFormed = true := by decide
theorem test_illFormed_decode_256 : (Evaluation.decode (List.replicate 256 0)).wellFormed = false := by decide
/-- 10_state.md R35: and yet a model that takes it raises LengthError. -/
theorem test_decode_326_bytes : errs (.decode (List.replicate 326 0)) 1 = true := by decide
theorem test_illFormed_fltDec_256 : (Evaluation.fltDec (List.replicate 256 0)).wellFormed = false := by decide

/-! ### The select: the words of 30_encoding.md R80 -/

theorem test_word_decode : decode [0b00000000#8] = .ok (.decode, []) := by decide
theorem test_word_encode : decode [0b00000001#8] = .ok (.encode, []) := by decide
theorem test_word_fltDec : decode [0b00000010#8] = .ok (.fltDec, []) := by decide
theorem test_word_fltEnc : decode [0b00000011#8] = .ok (.fltEnc, []) := by decide
theorem test_word_stsDec : decode [0b00000100#8] = .ok (.stsDec, []) := by decide
theorem test_word_stsEnc : decode [0b00000101#8] = .ok (.stsEnc, []) := by decide
theorem test_word_cstDec : decode [0b00000110#8] = .ok (.cstDec, []) := by decide
theorem test_word_cstEnc : decode [0b00000111#8] = .ok (.cstEnc, []) := by decide
theorem test_word_none : decode [] = .error .noOperation := by decide
theorem test_table_word : decodeTableWord 8 5 = some .stsEnc := by decide

/-- The first table of 00_scope.md section 4, and NREG registers of two bytes each. -/
theorem test_constants :
    [bufLen, nreg, regBase, faultLen, faultLo, faultHi, nfault, ncstate, brightMax, decDigits] =
      [70, 35, 0x100, 4, 16, 31, 15, 7, 100, 2] ∧ bufLen = 2 * nreg := by decide

/-! ### One or two evaluations of each operation, from 95_test_vectors.md -/

/-- 2.2: a tie that rounds up, sign extension, an ignored low fault half, the high register first. -/
theorem test_decode_S2 : answers (.decode bytesS2) (fun t =>
    t.err == 0 && t.outLid == 2 && t.outSnap.powerGeneratedToday == 42 && t.outSnap.batteryTemperature.toInt == -5 &&
    t.outSnap.totalChargingAmpHours == 7000000 && t.outSnap.faults == labels [0x11, 0x15]) = true := by decide

/-- Program 3: 13.65 V is 137, 12.50 W is 13, 1.23 kWh is 12300. -/
theorem test_encode_edited :
    (drives (.encode snapEdited) 0 [0x00, 0x64, 0x00, 0x89, 0, 0, 0x19, 0, 0, 0, 0, 0, 0, 0x0D] &&
     drives (.encode snapEdited) 38 [0x30, 0x0C] && drives (.encode snapEdited) 64 [0xB2, 0x05, 0, 4, 0, 0]) = true := by
  decide

/-- 2.10, the last row: the refusal comes before the error. -/
theorem test_encode_unfit :
    refuses (.encode { snapOne with powerGeneratedToday := 656, brightness := 150 }) = true := by decide

/-- 2.7. -/
theorem test_fltDec_ignored_bits : answers (.fltDec [0x80, 0x01, 0x00, 0x01]) (fun t =>
    t.err == 0 && t.outSnap.faults == labels [0x10]) = true := by decide

/-- 2.6: 5 bytes. -/
theorem test_fltDec_length : errs (.fltDec [0, 1, 0, 0, 0]) 1 = true := by decide

/-- 2.7. -/
theorem test_fltEnc_pair : drives (.fltEnc (labels [0x10, 0x1E])) 0 [0x40, 0x01, 0x00, 0x00] = true := by decide

/-- 2.7: the identifier that bit 31 would have. -/
theorem test_fltEnc_bit31 : errs (.fltEnc (labels [0x1F])) 3 = true := by decide

/-- 2.8: brightness 101 decodes. -/
theorem test_stsDec_unchecked : answers (.stsDec 0x65) (fun t =>
    t.err == 0 && t.outSnap.loadOn == false && t.outSnap.brightness == 101) = true := by decide

/-- 1.1. -/
theorem test_stsDec_on : answers (.stsDec 0xB2) (fun t =>
    t.err == 0 && t.outSnap.loadOn == true && t.outSnap.brightness == 50) = true := by decide

/-- 1.1. -/
theorem test_stsEnc_source : drives (.stsEnc true 50) 0 [0xB2] = true := by decide

/-- 2.8. -/
theorem test_stsEnc_101 : errs (.stsEnc false 101) 2 = true := by decide

/-- 1.2. -/
theorem test_cstDec_six : answers (.cstDec 0x06) (fun t =>
    t.err == 0 && t.outSnap.chargingState == 6 && t.outLid == 6) = true := by decide

/-- 2.9: the code is kept, the label is `unknown`. -/
theorem test_cstDec_ff : answers (.cstDec 0xFF) (fun t =>
    t.err == 0 && t.outSnap.chargingState == 0xFF && t.outLid == 7) = true := by decide

/-- 2.9. -/
theorem test_cstEnc_six : drives (.cstEnc 0x06) 0 [0x06] = true := by decide

/-- 2.9: `unknown` is no mode. -/
theorem test_cstEnc_seven : errs (.cstEnc 0x07) 3 = true := by decide

/-- 10_state.md R21 and 70_reset_and_hazards.md R303: the last register. -/
theorem test_modbusAddr_last : modbusAddr 69 = 0x122 := by decide

/-- 30_encoding.md R99: `13.60` for 1360. -/
theorem test_decimalText : decimalText 1360 = "13.60" := by decide

/-- 10_state.md R27: the label is the string, the fault labels the string-set. -/
theorem test_interchange_labels :
    chargingStateText params 0 = "charging deactivated" ∧ chargingStateText params 6 = "current limiting overpower" ∧
    chargingStateText params 0xFF = "unknown" ∧ (faultTexts params (labels [0x11, 0x15])).length = 2 := by decide

/-! ### Witnesses: the hypotheses of each statement are met together

A witness is named after its statement. -/

theorem witness_SelectCodesRoundTrip : Instr.decode.wellFormed = true ∧ Instr.cstEnc.wellFormed = true := by decide

theorem witness_StepEvaluatesTheSelectedOperation :
    decode (fetchBytes (given (.cstEnc 6))) = .ok (.cstEnc, []) ∧ Instr.cstEnc.wellFormed = true := by decide

/-- Every operation answers a next state somewhere. -/
theorem witness_NoOperationWritesAnInputPort : ∀ i : Instr, ∃ t, exec i State.reset = .next t := by
  intro i; cases i <;> exact ⟨_, rfl⟩

/-- Each of the four values of `err` occurs. -/
theorem witness_EachOperationDrivesOnlyItsOwnErrorCodes :
    (errs (.decode bytesS2) 0 && errs (.fltDec []) 1 && errs (.stsEnc false 255) 2 && errs (.cstEnc 7) 3) = true := by
  decide

theorem witness_OnlyUnfittingEncodeIsRefused :
    ¬ FitsRegisters { snapOne with chargingCurrent := 65536 } ∧ FitsRegisters snapEdge :=
  ⟨unfit_of (by decide), edge_encodable.1⟩

/-- Two states with unlike unused ports, an unlike lane 4 past `in_len`, and the same operand of FLT_DEC. -/
theorem witness_ResultDependsOnTheOperandAlone :
    ∃ s t s' : State, s ≠ t ∧ lane s.inBytes 4 ≠ lane t.inBytes 4 ∧ sameOperand .fltDec s t ∧
      exec .fltDec s = .next s' ∧ s'.err = 0 := by
  refine ⟨given (.fltDec [0, 1, 0, 0]),
    { (given (.decode [0, 1, 0, 0, 9])) with inLen := 4, inLid := 3, err := 2 }, _, by decide, by decide,
    ⟨by decide, by decide⟩, rfl, by decide⟩

theorem witness_LengthErrorExactlyOnAWrongLength :
    (errs (.decode (List.replicate 69 0)) 1 && errs (.decode bytesS2) 0 && errs (.fltDec [0, 0, 0]) 1 &&
     errs (.fltDec [0, 0, 0, 0]) 0 && errs (.cstDec 9) 0) = true := by decide

theorem witness_RangeErrorExactlyOnBrightness :
    (errs (.encode { snapOne with brightness := 101 }) 2 && errs (.encode { snapOne with brightness := 100 }) 0 &&
     errs (.stsEnc true 101) 2 && errs (.stsEnc true 100) 0 && errs (.cstEnc 200) 3) = true := by decide

theorem witness_FaultNameErrorExactlyOnAnUnknownLabel :
    (errs (.encode { snapOne with brightness := 100, faults := labels [0x12, 0x20] }) 3 &&
     errs (.encode { snapOne with brightness := 150, faults := labels [0x20] }) 2 &&
     errs (.fltEnc (labels [0x0F])) 3 && errs (.fltEnc (labels [0x10])) 0 && errs (.cstEnc 7) 3 &&
     errs (.cstEnc 6) 0 && errs (.stsDec 0x7F) 0) = true := by decide

theorem witness_EveryStepLeavesLegalOutputs : State.reset.OutputsLegal ∧ ∃ t, step State.reset = .next t :=
  ⟨.inl rfl, _, rfl⟩

/-! DECODE -/

theorem sampleTwo_full : (given (.decode bytesS2)).inLen = 70 := by decide
theorem sampleThree_full : (given (.decode bytesS3)).inLen = 70 := by decide

theorem witness_DecodeSucceedsOnSeventyBytes : (given (.decode bytesS2)).inLen = 70 := sampleTwo_full

theorem witness_DecodeOfAnotherLengthIsALengthError :
    (given (.decode [])).inLen ≠ 70 ∧ (given (.decode (List.replicate 69 0))).inLen ≠ 70 ∧
    (given (.decode (List.replicate 255 0))).inLen ≠ 70 := by decide

/-- No sign: the word is above 32767. -/
theorem witness_DecodeReadsTheIntegerFields :
    (given (.decode bytesS3)).inLen = 70 ∧ be16 (given (.decode bytesS3)).inBytes 0 = 65535 := by decide

/-- Both signs. -/
theorem witness_DecodeReadsTheTemperatures :
    (given (.decode bytesS2)).inLen = 70 ∧ lane (given (.decode bytesS2)).inBytes 6 < 128 ∧
    ¬ lane (given (.decode bytesS2)).inBytes 7 < 128 := by decide

theorem witness_DecodeReadsTheTenthFields :
    (given (.decode bytesS3)).inLen = 70 ∧ be16 (given (.decode bytesS3)).inBytes 2 = 65535 := by decide

theorem witness_DecodeReadsTheHundredthFields :
    (given (.decode bytesS2)).inLen = 70 ∧ be16 (given (.decode bytesS2)).inBytes 4 = 523 := by decide

theorem witness_DecodeReadsTheUnscaledFields :
    (given (.decode bytesS3)).inLen = 70 ∧ be32 (given (.decode bytesS3)).inBytes 48 = 4294967295 := by decide

/-- A tie at 38, a value below one at 40. -/
theorem witness_DecodeRoundsTheEnergyFields :
    (given (.decode bytesS2)).inLen = 70 ∧ be16 (given (.decode bytesS2)).inBytes 38 % 100 = 50 ∧
    be16 (given (.decode bytesS2)).inBytes 40 % 100 = 49 := by decide

/-- A mode and an unrecognized code; both values of bit 7. -/
theorem witness_DecodeReadsStatusStateAndFaults :
    (given (.decode bytesS2)).inLen = 70 ∧ lane (given (.decode bytesS2)).inBytes 65 ≤ 6 ∧
    (given (.decode bytesS3)).inLen = 70 ∧ ¬ lane (given (.decode bytesS3)).inBytes 65 ≤ 6 := by decide

/-- S2 and its normal form E2 differ in eight bytes and meet every hypothesis. -/
theorem witness_DecodeDoesNotDependOnReservedBytes :
    let s := given (.decode bytesS2)
    let t : State := { s with inBytes := (((((s.inBytes.set 20 0).set 21 0).set 39 0x68).set 41 0x40).set 68 0).set 66 0x80 }
    s ≠ t ∧ s.inLen = 70 ∧ t.inLen = 70 ∧
    (∀ k < 70, k ∉ [20, 21, 38, 39, 40, 41, 56, 57, 58, 59, 60, 61, 62, 63, 66, 68, 69] →
      lane s.inBytes k = lane t.inBytes k) ∧
    lane s.inBytes 66 % 128 = lane t.inBytes 66 % 128 ∧
    (be16 s.inBytes 38 + 50) / 100 = (be16 t.inBytes 38 + 50) / 100 ∧
    (be16 s.inBytes 40 + 50) / 100 = (be16 t.inBytes 40 + 50) / 100 ∧
    (be32 s.inBytes 56 + 50) / 100 = (be32 t.inBytes 56 + 50) / 100 ∧
    (be32 s.inBytes 60 + 50) / 100 = (be32 t.inBytes 60 + 50) / 100 ∧
    (∃ s', exec .decode s = .next s') ∧ ∃ t', exec .decode t = .next t' := by
  refine ⟨by decide, by decide, by decide, by decide, by decide, by decide, by decide, by decide, by decide,
    ⟨_, rfl⟩, _, rfl⟩

theorem witness_DecodedSnapshotsLieInTheDecodersImage :
    ∃ t, exec .decode (given (.decode bytesS3)) = .next t ∧ t.err = 0 := ⟨_, rfl, by decide⟩

/-! ENCODE -/

/-- The image's one unfit value, at its boundary. -/
theorem witness_RepresentableIsTheTableOfBounds :
    InDecoderImage params zeroSnapshot ∧ InDecoderImage params { zeroSnapshot with cumulativePowerGenerated := 42949673 } := by
  constructor <;> refine ⟨?_, ?_, ?_, ?_, ?_, ?_, ?_, noFaults_only⟩ <;> simp [zeroSnapshot, cw]

theorem witness_UnfittingSnapshotsFollowTheOverflowPolicy :
    let s : Snapshot := { snapEdge with cumulativePowerConsumed := 42949673 }
    ¬ FitsRegisters s ∧ s.brightness.toNat ≤ 100 ∧ OnlyFaultLabels params s.faults :=
  ⟨unfit_of (by decide), by decide, (allFaultLabels_iff _ _).mp (by decide)⟩

/-- The buffer's last byte and its last write. -/
theorem witness_EncodeWritesEveryByteOnce :
    69 < 70 ∧ plainWrite 66 4 0x7FFF0000 ∈ blockWrites params snapEdge 0 0x7FFF0000 := by decide

theorem witness_EncodeSucceedsOnEncodableSnapshots : IsEncodable params (given (.encode snapEdge)).inSnap := edge_encodable
theorem witness_EncodeWritesTheIntegerFields : IsEncodable params (given (.encode snapEdge)).inSnap := edge_encodable
theorem witness_EncodeWritesTheTemperatures :
    IsEncodable params (given (.encode snapEdge)).inSnap ∧ snapEdge.controllerTemperature.toInt = -128 := ⟨edge_encodable, by decide⟩
theorem witness_EncodeWritesTheTenthFields :
    IsEncodable params (given (.encode snapEdge)).inSnap ∧ snapEdge.batteryVoltage.toNat = 655354 ∧
    snapEdge.loadVoltage.toNat = 5 := ⟨edge_encodable, by decide⟩
theorem witness_EncodeWritesTheHundredthFields :
    IsEncodable params (given (.encode snapEdge)).inSnap ∧ snapEdge.chargingCurrent.toNat = 65535 := ⟨edge_encodable, by decide⟩
theorem witness_EncodeWritesTheUnscaledFields :
    IsEncodable params (given (.encode snapEdge)).inSnap ∧ snapEdge.totalChargingAmpHours.toNat = 429496729549 :=
  ⟨edge_encodable, by decide⟩
theorem witness_EncodeWritesTheEnergyFields :
    IsEncodable params (given (.encode snapEdge)).inSnap ∧ snapEdge.cumulativePowerGenerated.toNat = 42949672 :=
  ⟨edge_encodable, by decide⟩
theorem witness_EncodeWritesReservedStatusStateAndFaults :
    IsEncodable params (given (.encode snapEdited)).inSnap ∧ IsEncodable params (given (.encode snapEdge)).inSnap :=
  ⟨edited_encodable, edge_encodable⟩

/-- Both errors at once, and the name alone at the largest legal brightness. -/
theorem witness_EncodeReportsRangeBeforeName :
    let s : Snapshot := { snapOne with brightness := 101, faults := labels [0x20] }
    let t : Snapshot := { snapOne with brightness := 100, faults := labels [0x1F] }
    FitsRegisters s ∧ 100 < s.brightness.toNat ∧
    FitsRegisters t ∧ t.brightness.toNat ≤ 100 ∧ ¬ OnlyFaultLabels params t.faults :=
  ⟨(representable_iff _).mp (by decide), by decide, (representable_iff _).mp (by decide), by decide,
    notOnly_of (by decide)⟩

/-- An off-grid Snapshot, the bytes ENCODE gives it presented to DECODE, and a Snapshot of the decoder's image. -/
theorem witness_DecodeAfterEncodeRequantizes :
    IsEncodable params (given (.encode snapEdited)).inSnap ∧ InDecoderImage params zeroSnapshot ∧
    ∃ t u : State, exec .encode (given (.encode snapEdited)) = .next t ∧ u.inLen = 70 ∧ u.inBytes = t.outBytes :=
  ⟨edited_encodable, witness_RepresentableIsTheTableOfBounds.1, _, { State.reset with inLen := 70, inBytes := _ }, rfl,
    rfl, rfl⟩

/-- Sample S3 with these bytes at 56 to 64: the two cumulative energies and the status byte. -/
def bytesS3With (energies : List Byte) (status : Byte) : List Byte := bytesS3.take 56 ++ energies ++ status :: bytesS3.drop 65

/-- The three outcomes where they meet: 4294967250 at 56 and at 60, then 4294967249 at both with brightness 101 and 100. -/
theorem witness_EncodeAfterDecodeNormalizes :
    (let s := given (.decode (bytesS3With [0xFF, 0xFF, 0xFF, 0xD2, 0, 0, 0, 0] 0xE4))
     s.inLen = 70 ∧ be32 s.inBytes 56 = 4294967250) ∧
    (let s := given (.decode (bytesS3With [0, 0, 0, 0, 0xFF, 0xFF, 0xFF, 0xD2] 0xE5))
     s.inLen = 70 ∧ be32 s.inBytes 60 = 4294967250) ∧
    (let s := given (.decode (bytesS3With [0xFF, 0xFF, 0xFF, 0xD1, 0xFF, 0xFF, 0xFF, 0xD1] 0xE5))
     s.inLen = 70 ∧ be32 s.inBytes 56 = 4294967249 ∧ be32 s.inBytes 60 = 4294967249 ∧ lane s.inBytes 64 % 128 = 101) ∧
    (let s := given (.decode (bytesS3With [0xFF, 0xFF, 0xFF, 0xD1, 0xFF, 0xFF, 0xFF, 0xD1] 0xE4))
     s.inLen = 70 ∧ be32 s.inBytes 56 = 4294967249 ∧ be32 s.inBytes 60 = 4294967249 ∧ lane s.inBytes 64 % 128 = 100) := by
  decide

theorem witness_EncodeRoundingIsUnobservableOnDecodedSnapshots : InDecoderImage params zeroSnapshot :=
  witness_RepresentableIsTheTableOfBounds.1

/-- Every clause; those of ENCODE on program 3's Snapshot. -/
theorem witness_BlockOperationsContainTheSmallCodecs :
    (let s := given (.decode bytesS2)
     s.inLen = 70 ∧ (∃ t, exec .decode s = .next t) ∧
     lane (given (.stsDec 0x9E)).inBytes 0 = lane s.inBytes 64 ∧
     lane (given (.cstDec 0x02)).inBytes 0 = lane s.inBytes 65 ∧
     (given (.fltDec [0x00, 0x22, 0x12, 0x34])).inLen = 4 ∧
     ∀ k < 4, lane (given (.fltDec [0x00, 0x22, 0x12, 0x34])).inBytes k = lane s.inBytes (66 + k)) ∧
    (let s := given (.encode snapEdited)
     (∃ t, exec .encode s = .next t ∧ t.err = 0) ∧
     sameOperand .stsEnc s (given (.stsEnc true 50)) ∧ (∃ v, exec .stsEnc (given (.stsEnc true 50)) = .next v) ∧
     sameOperand .fltEnc s (given (.fltEnc (labels [0x12]))) ∧
     ∃ v, exec .fltEnc (given (.fltEnc (labels [0x12]))) = .next v) := by
  refine ⟨⟨by decide, ⟨_, rfl⟩, by decide, by decide, by decide, by decide⟩, ?_, ⟨rfl, rfl⟩, ⟨_, rfl⟩, rfl, _, rfl⟩
  obtain ⟨st, out, -, h, -⟩ := execEncode_of_encodable (given (.encode snapEdited)) edited_encodable
  exact ⟨_, h, rfl⟩

/-! The small codecs -/

theorem witness_FltDecNamesTheSetBits : (given (.fltDec [0xFF, 0xFF, 0xFF, 0xFF])).inLen = 4 := by decide

theorem witness_FltDecOfAnotherLengthIsALengthError :
    (given (.fltDec [])).inLen ≠ 4 ∧ (given (.fltDec [0, 1, 0])).inLen ≠ 4 ∧ (given (.fltDec bytesS2)).inLen ≠ 4 ∧
    (given (.fltDec [0, 1, 0, 0])).inLen = 4 ∧ (∃ t, exec .fltDec (given (.fltDec [0, 1, 0, 0])) = .next t) ∧
    (given (.decode bytesS2)).inLen = 70 ∧ ∃ t, exec .decode (given (.decode bytesS2)) = .next t :=
  ⟨by decide, by decide, by decide, by decide, ⟨_, rfl⟩, by decide, _, rfl⟩

theorem witness_FltEncSetsTheNamedBits : OnlyFaultLabels params (given (.fltEnc (labels [0x10, 0x1E]))).inSnap.faults :=
  (allFaultLabels_iff _ _).mp (by decide)

theorem witness_FltEncRejectsAnyOtherLabel : ¬ OnlyFaultLabels params (given (.fltEnc (labels [0x11, 0x1F]))).inSnap.faults :=
  notOnly_of (by decide)

theorem witness_FaultCodecRoundTrips :
    OnlyFaultLabels params (given (.fltEnc (labels [0x10, 0x1E]))).inSnap.faults ∧
    (∃ t u : State, exec .fltEnc (given (.fltEnc (labels [0x10, 0x1E]))) = .next t ∧ u.inLen = 4 ∧
      u.inBytes = t.outBytes) ∧
    (given (.fltDec [0xFF, 0xFF, 0xFF, 0xFF])).inLen = 4 ∧
    ∃ t u : State, exec .fltDec (given (.fltDec [0xFF, 0xFF, 0xFF, 0xFF])) = .next t ∧
      u.inSnap.faults = t.outSnap.faults :=
  ⟨witness_FltEncSetsTheNamedBits, ⟨_, { State.reset with inLen := 4, inBytes := _ }, rfl, rfl, rfl⟩, by decide,
    _, { State.reset with inSnap := { zeroSnapshot with faults := _ } }, rfl, rfl⟩

theorem witness_StsEncPacksOrRangeErrors :
    (given (.stsEnc true 100)).inSnap.brightness.toNat ≤ 100 ∧ 100 < (given (.stsEnc true 101)).inSnap.brightness.toNat := by
  decide

/-- Both directions, and a byte whose brightness is at each side of the limit. -/
theorem witness_StatusCodecRoundTrips :
    (given (.stsEnc true 100)).inSnap.brightness.toNat ≤ 100 ∧
    (∃ t u : State, exec .stsEnc (given (.stsEnc true 100)) = .next t ∧ u.inBytes = t.outBytes) ∧
    (∃ t u : State, exec .stsDec (given (.stsDec 0xE4)) = .next t ∧ u.inSnap.loadOn = t.outSnap.loadOn ∧
      u.inSnap.brightness = t.outSnap.brightness) ∧
    lane (given (.stsDec 0xE4)).inBytes 0 % 128 ≤ 100 ∧ ¬ lane (given (.stsDec 0xE5)).inBytes 0 % 128 ≤ 100 :=
  ⟨by decide, ⟨_, { State.reset with inBytes := _ }, rfl, rfl⟩,
    ⟨_, { State.reset with inSnap := { zeroSnapshot with loadOn := _, brightness := _ } }, rfl, rfl, rfl⟩,
    by decide, by decide⟩

theorem witness_CstDecKeepsTheCodeAndLabelsIt :
    lane (given (.cstDec 6)).inBytes 0 ≤ 6 ∧ ¬ lane (given (.cstDec 7)).inBytes 0 ≤ 6 := by decide

theorem witness_CstEncAcceptsTheModeLabelsOnly :
    (given (.cstEnc 6)).inLid.toNat ≤ 6 ∧ 6 < (given (.cstEnc 7)).inLid.toNat := by decide

theorem witness_ChargingStateLookupsRoundTrip :
    (∃ t u : State, exec .cstDec (given (.cstDec 7)) = .next t ∧ u.inLid = t.outLid) ∧
    (given (.cstEnc 6)).inLid.toNat ≤ 6 ∧
    ∃ t u : State, exec .cstEnc (given (.cstEnc 6)) = .next t ∧ u.inBytes = t.outBytes :=
  ⟨⟨_, { State.reset with inLid := _ }, rfl, rfl⟩, by decide, _, { State.reset with inBytes := _ }, rfl, rfl⟩

theorem witness_OperandBytesAreBigEndian : 66 + 4 ≤ (List.replicate 70 (0 : Byte)).length := by decide

/-- The longest operand that can be presented, and the lengths at which the clauses meet. -/
theorem witness_PresentedEvaluationsAreTheOnesMade :
    (Evaluation.decode (List.replicate 255 0)).wellFormed = true ∧ bytesS2.length ≤ 70 ∧
    (List.replicate 71 (0 : Byte)).length ≠ 70 ∧ (List.replicate 326 (0 : Byte)).length ≠ 70 ∧
    (Evaluation.fltDec [0, 1, 0, 0]).wellFormed = true ∧ ([0, 1, 0] : List Byte).length ≠ 4 := by
  decide

/-- A `LABEL_TEXT` of the tests' own, with bit 16 unnamed: the text of an identifier has its number in letters. -/
def testParams : Params :=
  { params with
    faultUnnamedBit := 16
    unnamedInRange := by decide
    labelTexts := (List.range 8 ++ List.range' 17 15).map fun n =>
      (BitVec.ofNat lidW n, String.ofList (List.replicate n 'x')) }

theorem testTexts_oneToOne : TextsAreOneToOne testParams := by
  have key : ∀ a : LabelId, IsLabel testParams a →
      (labelText testParams a).map (fun t => t.toList.length) = some a.toNat := by decide
  refine ⟨by decide, fun a b ha h => BitVec.eq_of_toNat_eq ?_⟩
  have hb : IsLabel testParams b := by
    have : ∀ b : LabelId, (labelText testParams b).isSome = true → IsLabel testParams b := by decide
    obtain ⟨x, hx, -⟩ := Option.map_eq_some_iff.mp (key a ha)
    exact this b (by rw [← h, hx]; rfl)
  have := key a ha
  rw [h, key b hb] at this
  exact (Option.some.inj this).symm

/-- With bit 16 unnamed: a set that FLT_ENC accepts, both ends of the range in it, and one that it does not. -/
theorem witness_FaultTableHasNfaultEntriesForAnyUnnamedBit :
    OnlyFaultLabels testParams (labels [0x11, 0x1F]) ∧ ¬ OnlyFaultLabels testParams (labels [0x10]) :=
  ⟨(allFaultLabels_iff _ _).mp (by decide), fun h => absurd ((allFaultLabels_iff _ _).mpr h) (by decide)⟩

/-- Two Snapshots with fault labels only that differ, with the same mapping: unrecognized codes 7 and 8. -/
theorem witness_InterchangeViewKeepsAllButTheUnrecognizedCode :
    let s : Snapshot := { zeroSnapshot with chargingState := 7, faults := labels [0x11, 0x1F] }
    TextsAreOneToOne testParams ∧ OnlyFaultLabels testParams s.faults ∧ s ≠ { s with chargingState := 8 } ∧
    interchangeView testParams s = interchangeView testParams { s with chargingState := 8 } := by
  refine ⟨testTexts_oneToOne, fun i hi => ?_, by decide, rfl⟩
  have hlt : i < 256 := BitVec.lt_of_getLsbD hi
  have key : ∀ i < 256, (labels [0x11, 0x1F]).getLsbD i = true → IsFaultBit testParams i := by decide
  exact key i hlt hi

end Sys2Proof.Tests
end

section
/-! PROOFS. The operation select: a code put on the `op` port, or held in a byte, selects its own operation
(30_encoding.md R80), and one step is one evaluation of the selected operation (00_scope.md R15). -/

namespace Sys2Proof.Machine

/-! ### The select code -/

/-- The per-operation round trips of `Laws.SelectRoundTrip`, for any operation. -/
theorem selectRoundTrip (i : Instr) : Laws.SelectRoundTrip.Statement i := by
  cases i with
  | decode => exact Laws.SelectRoundTrip.decode
  | encode => exact Laws.SelectRoundTrip.encode
  | fltDec => exact Laws.SelectRoundTrip.fltDec
  | fltEnc => exact Laws.SelectRoundTrip.fltEnc
  | stsDec => exact Laws.SelectRoundTrip.stsDec
  | stsEnc => exact Laws.SelectRoundTrip.stsEnc
  | cstDec => exact Laws.SelectRoundTrip.cstDec
  | cstEnc => exact Laws.SelectRoundTrip.cstEnc

@[simp] theorem decodeOp_encodeOp (i : Instr) : decodeOp (encodeOp i) = i := by
  obtain ⟨-, code_selects, -⟩ := selectRoundTrip i
  exact code_selects

/-! ### The operation a step takes from the port -/

/-- The byte that shows the select port decodes to the operation on the port, and nothing follows it. -/
theorem decode_fetchBytes (s : State) : decode (fetchBytes s) = .ok (fetchInstr s, []) := by
  have low_bits : (s.op.setWidth 8).extractLsb' 0 opW = s.op := by
    rw [BitVec.extractLsb'_setWidth_of_le (by decide), BitVec.extractLsb'_eq_self]
  rw [fetchBytes, decode, low_bits, fetchInstr]

/-- A table word of eight bits puts its low three bits on the select port (30_encoding.md R80). -/
theorem withFetchWord_code (s : State) (c : OpCode) : s.withFetchWord 8 c.toNat = { s with op := c } := by
  have fits_a_byte : c.toNat % 2 ^ 8 = c.toNat := Nat.mod_eq_of_lt (Nat.lt_trans c.isLt (by decide))
  rw [State.withFetchWord, fits_a_byte, BitVec.ofNat_toNat, BitVec.setWidth_eq]

/-- A step at a state whose select port holds an operation's code evaluates that operation. -/
theorem step_of_op_eq_encodeOp {s : State} {i : Instr} (h : s.op = encodeOp i) : step s = exec i s := by
  rw [step, fetchInstr, h, decodeOp_encodeOp]

/-! ### The obligation -/

/-- Settles O3: the byte on the select port decodes to what `step` fetches, and an operation's code selects it. -/
theorem stepEvaluatesTheSelectedOperation : Obligations.StepEvaluatesTheSelectedOperation := by
  unfold Obligations.StepEvaluatesTheSelectedOperation
  refine ⟨fun s i rest hdecode _ => ?_, fun s i => ?_⟩
  · rw [decode_fetchBytes] at hdecode
    injection hdecode with hpair
    obtain ⟨rfl, -⟩ := Prod.mk.inj hpair
    rfl
  · rw [withFetchWord_code]
    exact step_of_op_eq_encodeOp rfl

end Sys2Proof.Machine
end

section
/-! PROOFS. Charging states and the byte values (10_state.md R37, 44_name_tables.md R253). -/

namespace Sys2Proof.Machine

/-! ### The state of a code -/

theorem chargingStateOfCode_of_lt {code : Byte} (h : code.toNat < ncstate) :
    chargingStateOfCode code = .mode ⟨code.toNat, h⟩ := dif_pos h

theorem chargingStateOfCode_of_ge {code : Byte} (h : ncstate ≤ code.toNat) :
    chargingStateOfCode code = .unrecognized code h := dif_neg (Nat.not_lt.mpr h)

/-- A mode's number is kept by its one-byte carrier. -/
theorem toNat_codeOfChargingState_mode (m : Fin ncstate) : (codeOfChargingState (.mode m)).toNat = m.val :=
  Nat.mod_eq_of_lt (Nat.lt_trans m.isLt (by decide))

theorem chargingStateOfCode_codeOfChargingState (c : ChargingState) :
    chargingStateOfCode (codeOfChargingState c) = c := by
  cases c with
  | mode m =>
    have hm := toNat_codeOfChargingState_mode m
    rw [chargingStateOfCode_of_lt (hm ▸ m.isLt)]
    exact congrArg ChargingState.mode (Fin.ext hm)
  | unrecognized u h => exact chargingStateOfCode_of_ge h

/-- The codes of modes are those from 0 to 6, and a code's mode has its number. -/
theorem exists_mode_iff (code : Byte) :
    (∃ m : Fin ncstate, chargingStateOfCode code = .mode m ∧ m.val = code.toNat) ↔ code.toNat ≤ 6 := by
  constructor
  · rintro ⟨m, -, hm⟩
    exact hm ▸ Nat.le_of_lt_succ m.isLt
  · intro h
    exact ⟨⟨code.toNat, Nat.lt_succ_of_le h⟩, chargingStateOfCode_of_lt _, rfl⟩

/-! ### The obligation -/

/-- Settles O52: the carrier and the sum are inverse to each other, and this model's policy keeps every code. -/
theorem chargingStatesAreTheByteValues : Obligations.ChargingStatesAreTheByteValues :=
  ⟨codeOfChargingState_ofCode, chargingStateOfCode_codeOfChargingState, exists_mode_iff, params_unknownPolicy,
    decodedState_params⟩

end Sys2Proof.Machine
end

section
/-! PROOFS. A decoded Snapshot lies in the decoder's image (10_state.md R41). -/

namespace Sys2Proof.Machine

/-! ### Decimal fields, in terms of the lanes -/

theorem hundredthsOfRaw_le (p : Params) (sc : Scale) (raw : Nat) : hundredthsOfRaw p sc raw ≤ raw * 100 := by
  cases sc with
  | tenth => rw [hundredthsOfRaw_tenth]; omega
  | hundredth => rw [hundredthsOfRaw_hundredth]; omega
  | unit => rw [hundredthsOfRaw_unit]
  | tenThousandth => cases h : p.decRound <;> simp [hundredthsOfRaw, roundDiv, scaleFactor, h] <;> omega

/-- The carrier holds the hundredths of every 16-bit raw value. -/
@[simp] theorem toNat_decAt_two (p : Params) (v : Lanes) (sc : Scale) (o : Nat) :
    (decAt p v.toList sc o 2).toNat = hundredthsOfRaw p sc (be16 v o) := by
  have raw_lt := be16_lt v o
  have scaled_le := hundredthsOfRaw_le p sc (be16 v o)
  rw [be16_eq_memRead] at *
  exact decAt_toNat p v sc o 2 (by omega)

/-- The carrier holds the hundredths of every 32-bit raw value. -/
@[simp] theorem toNat_decAt_four (p : Params) (v : Lanes) (sc : Scale) (o : Nat) :
    (decAt p v.toList sc o 4).toNat = hundredthsOfRaw p sc (be32 v o) := by
  have raw_lt := be32_lt v o
  have scaled_le := hundredthsOfRaw_le p sc (be32 v o)
  rw [be32_eq_memRead] at *
  exact decAt_toNat p v sc o 4 (by omega)

/-! ### The image -/

/-- A property of the decimal fields of one class holds of all of them when it holds at every offset. -/
theorem forall_decAt {P : Hundredths → Prop} {p : Params} {v : Lanes} {sc : Scale} {n : Nat}
    (h : ∀ o, P (decAt p v.toList sc o n)) (offsets : List Nat) :
    ∀ c ∈ offsets.map fun o => decAt p v.toList sc o n, P c :=
  List.forall_mem_map.mpr fun o _ => h o

@[simp] theorem decodedLanes_brightness_toNat (v : Lanes) :
    (decodedLanes v).1.brightness.toNat = lane v 64 % 128 := by
  have carried : (BitVec.ofNat 8 (lane v 64)).toNat = lane v 64 := Nat.mod_eq_of_lt (lane_lt v 64)
  exact carried ▸ (status_byte_cases (BitVec.ofNat 8 (lane v 64))).2

theorem inDecoderImage_decodedLanes (v : Lanes) : InDecoderImage params (decodedLanes v).1 := by
  refine ⟨forall_decAt (sc := .tenth) (n := 2) (fun o => ?tenth) [2, 8, 14, 22, 24],
    forall_decAt (sc := .hundredth) (n := 2) (fun o => ?hundredth) [4, 10, 16, 26, 28],
    forall_decAt (sc := .unit) (n := 2) (fun o => ?unit) [12, 18, 30, 32, 34, 36],
    forall_decAt (sc := .unit) (n := 4) (fun o => ?unitWide) [48, 52],
    forall_decAt (sc := .tenThousandth) (n := 2) (fun o => ?energy) [38, 40],
    forall_decAt (sc := .tenThousandth) (n := 4) (fun o => ?energyWide) [56, 60],
    ?brightness, onlyFaultLabels_faultsOfWord _⟩
  case tenth => have := be16_lt v o; rw [toNat_decAt_two, hundredthsOfRaw_tenth]; omega
  case hundredth => have := be16_lt v o; rw [toNat_decAt_two, hundredthsOfRaw_hundredth]; omega
  case unit => have := be16_lt v o; rw [toNat_decAt_two, hundredthsOfRaw_unit]; omega
  case unitWide => have := be32_lt v o; rw [toNat_decAt_four, hundredthsOfRaw_unit]; omega
  case energy => have := be16_lt v o; rw [toNat_decAt_two, hundredthsOfRaw_tenThousandth]; omega
  case energyWide => have := be32_lt v o; rw [toNat_decAt_four, hundredthsOfRaw_tenThousandth]; omega
  case brightness => rw [decodedLanes_brightness_toNat]; omega

/-! ### What DECODE answers -/

theorem byteOperand_length_ne {s : State} {n : Nat} (hn : n < 256) (h : s.inLen ≠ BitVec.ofNat lenW n) :
    (byteOperand s).length ≠ n := by
  rw [byteOperand_length]
  exact mt (inLen_eq_iff hn).mpr h

theorem execDecode_of_not_full (s : State) (h : s.inLen ≠ 70) : exec .decode s = .next (s.afterError 1) := by
  show execDecode s = _
  rw [execDecode, decodeBlock_length _ (byteOperand_length_ne (by decide) h), settle_error]
  rfl

/-- Everything DECODE can answer: a LengthError, or what the 70 lanes decode to. -/
theorem execDecode_cases (s : State) :
    (s.inLen ≠ 70 ∧ exec .decode s = .next (s.afterError 1)) ∨
    (s.inLen = 70 ∧ exec .decode s = .next (driveSnapshot (decodedLanes s.inBytes) s.afterSuccess)) := by
  by_cases h : s.inLen = 70
  · exact .inr ⟨h, execDecode_of_full s h⟩
  · exact .inl ⟨h, execDecode_of_not_full s h⟩

/-! ### The obligation -/

/-- Settles O24: a DECODE without error is one of 70 lanes, each class of whose fields meets its bound and grid. -/
theorem decodedSnapshotsLieInTheDecodersImage : Obligations.DecodedSnapshotsLieInTheDecodersImage := by
  unfold Obligations.DecodedSnapshotsLieInTheDecodersImage
  intro s t hnext herr
  obtain ⟨-, hexec⟩ | ⟨-, hexec⟩ := execDecode_cases s
  all_goals
    rw [hexec] at hnext
    obtain rfl := Host.Outcome.next.inj hnext
  · rw [afterError_err] at herr
    exact absurd herr (by decide)
  · exact inDecoderImage_decodedLanes s.inBytes

end Sys2Proof.Machine
end

section
/-! PROOFS. An evaluation's result is a function of the operand it uses (10_state.md R20, R33, R34). -/

namespace Sys2Proof.Machine

/-! ### States with the same operand give the operations' functions the same argument -/

theorem decodeBlock_congr {s t : State} (h : sameOperand .decode s t) :
    decodeBlock params (byteOperand s) = decodeBlock params (byteOperand t) := by
  obtain ⟨hlen, hlanes⟩ := h
  by_cases hfull : s.inLen = 70
  · have hlt : ∀ k < 70, k < s.inLen.toNat := fun k hk => by rw [hfull]; exact hk
    rw [byteOperand_of_full s hfull, byteOperand_of_full t (hlen ▸ hfull),
      lanes_ext fun k hk => hlanes k hk (hlt k hk)]
  · have hfull' : t.inLen ≠ 70 := hlen ▸ hfull
    rw [decodeBlock_length _ (byteOperand_length_ne (by decide) hfull),
      decodeBlock_length _ (byteOperand_length_ne (by decide) hfull')]

theorem fltDec_congr {s t : State} (h : sameOperand .fltDec s t) :
    fltDec params (byteOperand s) = fltDec params (byteOperand t) := by
  obtain ⟨hlen, hlanes⟩ := h
  simp only [fltDec_spec, byteOperand_length, ← hlen]
  split
  · next hfour =>
    have hread : memRead (byteOperand s) 0 4 = memRead (byteOperand t) 0 4 := memRead_congr fun k hk => by
      have hlt : k < s.inLen.toNat := by omega
      rw [Nat.zero_add, byteAt_byteOperand s k hlt (by omega), byteAt_byteOperand t k (hlen ▸ hlt) (by omega),
        hlanes k hk hlt]
    rw [hread]
  · rfl

theorem oneByteOperand_congr {s t : State} (h : lane s.inBytes 0 = lane t.inBytes 0) :
    oneByteOperand s = oneByteOperand t :=
  BitVec.eq_of_toNat_eq (by rwa [oneByteOperand_toNat, oneByteOperand_toNat])

/-! ### What the encoding operations put on the lanes -/

theorem length_of_fltEnc_eq_ok {p : Params} {F : LabelSet} {bs : List Byte} (h : fltEnc p F = .ok bs) :
    bs.length = 4 := by
  unfold fltEnc at h
  split at h
  · cases h
  · obtain rfl := Except.ok.inj h
    rw [faultLen_eq, memWrite_nil, bigEndian_length]

theorem length_of_encodeBlock_eq_ok {p : Params} {s : Snapshot} {bs : List Byte} (h : encodeBlock p s = .ok bs) :
    bs.length = 70 := by
  unfold encodeBlock at h
  cases hcodecs : statusAndFlags p s with
  | error k => rw [hcodecs] at h; cases h
  | ok v =>
    rw [hcodecs] at h
    simp only [bind, Except.bind, assemble_length] at h
    obtain rfl := Except.ok.inj h
    exact assemble_length p s v.1 v.2

/-- A driven lane holds its byte, whatever the lanes held before. -/
theorem lane_driveLanes_congr {bs : List Byte} {k : Nat} (hk : k < bs.length) (h70 : k < 70) (v w : Lanes) :
    lane (driveLanes bs v) k = lane (driveLanes bs w) k := by
  rw [lane_driveLanes _ _ _ h70, lane_driveLanes _ _ _ h70, if_pos hk, if_pos hk]

theorem execEncode_of_unfit (s : State) (h : ¬ FitsRegisters s.inSnap) :
    exec .encode s = .refused .encodeNotRepresentable := by
  show execEncode s = _
  rw [execEncode, encodeResult_unfit _ h]

/-! ### The shared result operation -/

theorem errCode_ne_zero (k : ErrKind) : errCode k ≠ 0 := by cases k <;> decide

/-- Two evaluations that settle the same result agree, when a driven value does not depend on what was driven before. -/
theorem settled_alike {α : Type} {i : Instr} {drive : α → State → State} {r r' : Except ErrKind α} {s t s' : State}
    (hs : exec i s = .next (settle drive r s)) (ht : exec i t = .next (settle drive r' t)) (hr : r = r')
    (drive_err : ∀ v u, (drive v u).err = u.err)
    (drive_alike : ∀ v, r = .ok v → sameResult i (drive v s.afterSuccess) (drive v t.afterSuccess))
    (hnext : exec i s = .next s') :
    ∃ t', exec i t = .next t' ∧ t'.err = s'.err ∧ (s'.err = 0 → sameResult i s' t') := by
  obtain rfl := Host.Outcome.next.inj (hs.symm.trans hnext)
  subst hr
  refine ⟨_, ht, ?_⟩
  cases r with
  | error k => exact ⟨rfl, fun herr => absurd herr (errCode_ne_zero k)⟩
  | ok v =>
    rw [settle_ok, settle_ok, drive_err, drive_err]
    exact ⟨rfl, fun _ => drive_alike v rfl⟩

/-! ### The obligation -/

/-- Settles O7: each operation settles a function of its operand, and drives whole what it specifies. -/
theorem resultDependsOnTheOperandAlone : Obligations.ResultDependsOnTheOperandAlone := by
  unfold Obligations.ResultDependsOnTheOperandAlone
  intro i s t s' hop hnext
  cases i with
  | decode => exact settled_alike rfl rfl (decodeBlock_congr hop) (fun _ _ => rfl) (fun _ _ => ⟨rfl, rfl⟩) hnext
  | encode =>
    by_cases hfits : FitsRegisters s.inSnap
    · have hsnap : s.inSnap = t.inSnap := hop
      refine settled_alike (execEncode_of_fits s hfits) (execEncode_of_fits t (hsnap ▸ hfits))
        (congrArg (encodeBlock params) hsnap) (fun _ _ => rfl) (fun bs hbs => lanes_ext fun k hk => ?_) hnext
      exact lane_driveLanes_congr (by rwa [length_of_encodeBlock_eq_ok hbs]) hk _ _
    · rw [execEncode_of_unfit s hfits] at hnext
      cases hnext
  | fltDec => exact settled_alike rfl rfl (fltDec_congr hop) (fun _ _ => rfl) (fun _ _ => rfl) hnext
  | fltEnc =>
    refine settled_alike rfl rfl (congrArg (fltEnc params) hop) (fun _ _ => rfl) (fun bs hbs k hk => ?_) hnext
    exact lane_driveLanes_congr (by rwa [length_of_fltEnc_eq_ok hbs]) (by omega) _ _
  | stsDec =>
    exact settled_alike rfl rfl (congrArg stsDec (oneByteOperand_congr hop)) (fun _ _ => rfl)
      (fun _ _ => ⟨rfl, rfl⟩) hnext
  | stsEnc =>
    obtain ⟨hon, hbright⟩ := hop
    exact settled_alike rfl rfl (congrArg₂ stsEnc hon hbright) (fun _ _ => rfl)
      (fun _ _ => lane_driveLanes_congr (by simp) (by omega) _ _) hnext
  | cstDec =>
    exact settled_alike rfl rfl (congrArg (cstDec params) (oneByteOperand_congr hop)) (fun _ _ => rfl)
      (fun _ _ => ⟨rfl, rfl⟩) hnext
  | cstEnc =>
    exact settled_alike rfl rfl (congrArg cstEnc hop) (fun _ _ => rfl)
      (fun _ _ => lane_driveLanes_congr (by simp) (by omega) _ _) hnext

end Sys2Proof.Machine
end

section
/-! PROOFS. A presented evaluation is the one the step makes (10_state.md R33, R35; 30_encoding.md R99). -/

namespace Sys2Proof.Machine

/-! ### The select -/

@[simp] theorem present_op (e : Evaluation) (s : State) : (s.present e).op = encodeOp e.instr := by
  cases e <;> rfl

theorem step_present (e : Evaluation) (s : State) : step (s.present e) = exec e.instr (s.present e) :=
  step_of_op_eq_encodeOp (present_op e s)

/-! ### A byte sequence on the ports -/

theorem toNat_lengthPort (B : List Byte) : (lengthPort B).toNat = min B.length 255 :=
  Nat.mod_eq_of_lt (Nat.lt_succ_of_le (Nat.min_le_right _ _))

theorem toNat_lengthPort_of_le {B : List Byte} (h : B.length ≤ 255) : (lengthPort B).toNat = B.length := by
  rw [toNat_lengthPort, Nat.min_eq_left h]

/-- No sequence of another length is presented as one of `n` bytes, those too long for `in_len` included. -/
theorem lengthPort_ne {B : List Byte} {n : Nat} (hn : n < 255) (h : B.length ≠ n) : lengthPort B ≠ BitVec.ofNat lenW n := by
  intro heq
  have := congrArg BitVec.toNat heq
  rw [toNat_lengthPort, BitVec.toNat_ofNat, two_pow_lenW] at this
  omega

/-- A sequence that the 70 lanes hold is read back. -/
theorem byteOperand_of_presented {u : State} {B : List Byte} {v : Lanes} (hlen : u.inLen = lengthPort B)
    (hbytes : u.inBytes = driveLanes B v) (h : B.length ≤ 70) : byteOperand u = B := by
  have count : u.inLen.toNat = B.length := by rw [hlen, toNat_lengthPort_of_le (by omega)]
  have held : u.inBytes.toList = B ++ (v.toList.drop B.length).take (70 - B.length) := by
    rw [hbytes, driveLanes_toList, List.take_append, List.take_of_length_le h]
  rw [byteOperand, count, held, List.append_assoc, List.take_left' rfl]

/-- The byte driven on lane 0 is the one-byte operand. -/
theorem oneByteOperand_of_presented {u : State} {b : Byte} {v : Lanes} (hbytes : u.inBytes = driveLanes [b] v) :
    oneByteOperand u = b := by
  apply BitVec.eq_of_toNat_eq
  rw [oneByteOperand_toNat, hbytes, lane_driveLanes _ _ _ (by decide), if_pos (by simp)]
  rfl

/-! ### A length that is not the operation's -/

theorem execFltDec_of_not_four (s : State) (h : s.inLen ≠ 4) : exec .fltDec s = .next (s.afterError 1) := by
  show execFltDec s = _
  rw [execFltDec, fltDec_spec, if_neg (byteOperand_length_ne (by decide) h), settle_error]
  rfl

/-! ### The obligation -/

/-- Settles O55: presenting sets the select to the operation's code, and each port to the operand it reads back. -/
theorem presentedEvaluationsAreTheOnesMade : Obligations.PresentedEvaluationsAreTheOnesMade := by
  unfold Obligations.PresentedEvaluationsAreTheOnesMade
  refine ⟨step_present, fun s => ⟨fun B => ⟨fun hwf => ?_, byteOperand_of_presented rfl rfl, fun hlen => ?_⟩,
    fun W => ⟨fun hwf => ?_, byteOperand_of_presented rfl rfl, fun hlen => ?_⟩, fun _ => rfl, fun _ => rfl,
    fun _ => oneByteOperand_of_presented rfl, fun _ _ => rfl, fun _ => oneByteOperand_of_presented rfl, fun _ => rfl⟩⟩
  · exact toNat_lengthPort_of_le (of_decide_eq_true hwf)
  · rw [step_present]
    exact execDecode_of_not_full _ (lengthPort_ne (by decide) hlen)
  · exact toNat_lengthPort_of_le (of_decide_eq_true hwf)
  · rw [step_present]
    exact execFltDec_of_not_four _ (lengthPort_ne (by decide) hlen)

end Sys2Proof.Machine
end

section
/-! PROOFS. What the flat mapping keeps of a Snapshot (10_state.md R27, 70_reset_and_hazards.md R316). -/

namespace Sys2Proof.Machine

/-! ### Decimal fields -/

@[simp] theorem decimalOf_inj {c d : Hundredths} : decimalOf c = decimalOf d ↔ c = d := by
  refine ⟨fun h => BitVec.eq_of_toNat_eq ?_, congrArg decimalOf⟩
  obtain ⟨hwhole, hfraction⟩ := FieldValue.decimal.inj h
  have hdigits : c.toNat % decUnit = d.toNat % decUnit := Fin.mk.inj hfraction
  rw [← Nat.div_add_mod c.toNat decUnit, hwhole, hdigits, Nat.div_add_mod]

/-! ### Labels -/

theorem isLabel_labelOfChargingState (p : Params) (code : Byte) :
    IsLabel p (labelOfChargingState (chargingStateOfCode code)) := by
  left
  rw [labelOfChargingState_toNat]
  split <;> omega

/-- A fault bit's index is its label's identifier (44_name_tables.md R251). -/
theorem toNat_faultLabel {p : Params} {i : Nat} (hi : IsFaultBit p i) : (BitVec.ofNat lidW i).toNat = i :=
  Nat.mod_eq_of_lt (Nat.lt_of_le_of_lt hi.2.1 (by decide))

theorem isLabel_faultLabel {p : Params} {i : Nat} (hi : IsFaultBit p i) : IsLabel p (BitVec.ofNat lidW i) :=
  .inr ((toNat_faultLabel hi).symm ▸ hi)

theorem mem_faultTexts {p : Params} {F : LabelSet} {t : String} :
    t ∈ faultTexts p F ↔ ∃ i, IsFaultBit p i ∧ F.getLsbD i = true ∧ labelText p (BitVec.ofNat lidW i) = some t := by
  simp only [faultTexts, List.mem_filterMap, List.mem_range'_1, Option.ite_none_right_eq_some, faultLo, faultHi]
  refine exists_congr fun i => ⟨?_, ?_⟩
  · rintro ⟨hrange, ⟨hnamed, hF⟩, ht⟩
    exact ⟨⟨by omega, by omega, hnamed⟩, hF, ht⟩
  · rintro ⟨⟨hlo, hhi, hnamed⟩, hF, ht⟩
    exact ⟨by omega, ⟨hnamed, hF⟩, ht⟩

/-! ### Texts that are one to one -/

section OneToOne

variable {p : Params} (hp : TextsAreOneToOne p)
include hp

theorem exists_labelText {lid : LabelId} (h : IsLabel p lid) : ∃ t, labelText p lid = some t :=
  Option.isSome_iff_exists.mp ((hp.1 lid).mpr h)

theorem labelText_inj {a b : LabelId} (ha : IsLabel p a) : labelText p a = labelText p b ↔ a = b :=
  ⟨hp.2 a b ha, congrArg (labelText p)⟩

/-- Two codes have the same text when they are equal or both unrecognized. -/
theorem chargingStateText_eq_iff (a b : Byte) :
    chargingStateText p a = chargingStateText p b ↔ a = b ∨ (7 ≤ a.toNat ∧ 7 ≤ b.toNat) := by
  obtain ⟨x, hx⟩ := exists_labelText hp (isLabel_labelOfChargingState p a)
  obtain ⟨y, hy⟩ := exists_labelText hp (isLabel_labelOfChargingState p b)
  calc chargingStateText p a = chargingStateText p b
    _ ↔ some x = some y := by
        rw [chargingStateText, chargingStateText, hx, hy, Option.getD_some, Option.getD_some, Option.some_inj]
    _ ↔ labelOfChargingState (chargingStateOfCode a) = labelOfChargingState (chargingStateOfCode b) := by
        rw [← hx, ← hy, labelText_inj hp (isLabel_labelOfChargingState p a)]
    _ ↔ a = b ∨ (7 ≤ a.toNat ∧ 7 ≤ b.toNat) := by
        rw [← BitVec.toNat_inj, labelOfChargingState_toNat, labelOfChargingState_toNat, ← BitVec.toNat_inj]
        split <;> split <;> omega

/-- A fault label's text is among a set's texts exactly when the label is in the set. -/
theorem mem_faultTexts_iff_getLsbD {F : LabelSet} {i : Nat} {t : String} (hi : IsFaultBit p i)
    (ht : labelText p (BitVec.ofNat lidW i) = some t) : t ∈ faultTexts p F ↔ F.getLsbD i = true := by
  rw [mem_faultTexts]
  refine ⟨fun ⟨j, hj, hF, htj⟩ => ?_, fun hF => ⟨i, hi, hF, ht⟩⟩
  have same_label := (labelText_inj hp (isLabel_faultLabel hi)).mp (ht.trans htj.symm)
  have same_bit : i = j := by rw [← toNat_faultLabel hi, same_label, toNat_faultLabel hj]
  exact same_bit ▸ hF

theorem faultTexts_inj {F G : LabelSet} (hF : OnlyFaultLabels p F) (hG : OnlyFaultLabels p G) :
    faultTexts p F = faultTexts p G ↔ F = G := by
  refine ⟨fun h => BitVec.eq_of_getLsbD_eq fun i _ => ?_, congrArg (faultTexts p)⟩
  by_cases hi : IsFaultBit p i
  · obtain ⟨t, ht⟩ := exists_labelText hp (isLabel_faultLabel hi)
    rw [Bool.eq_iff_iff, ← mem_faultTexts_iff_getLsbD hp hi ht, h, mem_faultTexts_iff_getLsbD hp hi ht]
  · rw [Bool.eq_false_iff.mpr (mt (hF i) hi), Bool.eq_false_iff.mpr (mt (hG i) hi)]

/-- The mapping shows every field as it is, but for the charging state, of which it shows the text. -/
theorem interchangeView_eq_iff {s t : Snapshot} (hs : OnlyFaultLabels p s.faults) (ht : OnlyFaultLabels p t.faults) :
    interchangeView p s = interchangeView p t ↔
      { s with chargingState := 0 } = { t with chargingState := 0 } ∧
        chargingStateText p s.chargingState = chargingStateText p t.chargingState := by
  simp only [interchangeView, List.cons_append, List.nil_append, List.cons.injEq, Prod.mk.injEq, true_and, and_true,
    FieldValue.integer.injEq, FieldValue.boolean.injEq, FieldValue.text.injEq, FieldValue.texts.injEq, decimalOf_inj,
    Int.natCast_inj, BitVec.toNat_inj, BitVec.toInt_inj, faultTexts_inj hp hs ht, Snapshot.mk.injEq, and_assoc,
    and_comm (a := chargingStateText p s.chargingState = _)]

end OneToOne

/-! ### The field names -/

/-- The names of the mapping, in its order. -/
def interchangeNames : List String := (interchangeView params zeroSnapshot).map Prod.fst

theorem interchangeView_names (p : Params) (s : Snapshot) : (interchangeView p s).map Prod.fst = interchangeNames := rfl

theorem interchangeNames_nodup : interchangeNames.Nodup := by decide

/-! ### The obligation -/

/-- Settles O56: every field's value determines the field, but for the text `unknown`, which unrecognized codes share. -/
theorem interchangeViewKeepsAllButTheUnrecognizedCode :
    Obligations.InterchangeViewKeepsAllButTheUnrecognizedCode := by
  unfold Obligations.InterchangeViewKeepsAllButTheUnrecognizedCode
  refine ⟨fun p s => ⟨?_, rfl⟩, fun p s t hp hs ht => ?_⟩
  · rw [interchangeView_names]
    exact interchangeNames_nodup
  · rw [interchangeView_eq_iff hp hs ht, chargingStateText_eq_iff hp]

end Sys2Proof.Machine
end

section
/-! PROOFS. No operation writes an input port (20_memory.md R57, R58; 10_state.md R40). -/

namespace Sys2Proof.Machine

/-! ### The frame of one evaluation -/

/-- From `s` to `t` every input port is as it was and one evaluation is counted (log entry 4). -/
def State.evaluatesOnceTo (s t : State) : Prop := s.sameInputs t ∧ t.evals = s.evals + 1

theorem evaluatesOnceTo_afterSuccess (s : State) : s.evaluatesOnceTo s.afterSuccess :=
  ⟨afterSuccess_sameInputs s, afterSuccess_evals s⟩

theorem evaluatesOnceTo_afterError (s : State) (c : ErrCode) : s.evaluatesOnceTo (s.afterError c) :=
  ⟨afterError_sameInputs s c, afterError_evals s c⟩

/-! ### Driving a result -/

theorem sameInputs_trans {s t u : State} (hst : s.sameInputs t) (htu : t.sameInputs u) : s.sameInputs u := by
  obtain ⟨hop, hlen, hbytes, hsnap, hlid⟩ := hst
  obtain ⟨hop', hlen', hbytes', hsnap', hlid'⟩ := htu
  exact ⟨hop.trans hop', hlen.trans hlen', hbytes.trans hbytes', hsnap.trans hsnap', hlid.trans hlid'⟩

/-- Whatever value it drives, `drive` leaves the input ports and the count of evaluations as they are. -/
def DrivesOutputsOnly {α : Type} (drive : α → State → State) : Prop :=
  ∀ v s, s.sameInputs (drive v s) ∧ (drive v s).evals = s.evals

theorem driveBytes_outputsOnly : DrivesOutputsOnly driveBytes := fun _ _ => ⟨⟨rfl, rfl, rfl, rfl, rfl⟩, rfl⟩

theorem driveSnapshot_outputsOnly : DrivesOutputsOnly driveSnapshot := fun _ _ => ⟨⟨rfl, rfl, rfl, rfl, rfl⟩, rfl⟩

theorem driveFaults_outputsOnly : DrivesOutputsOnly driveFaults := fun _ _ => ⟨⟨rfl, rfl, rfl, rfl, rfl⟩, rfl⟩

theorem driveStatus_outputsOnly : DrivesOutputsOnly driveStatus := fun _ _ => ⟨⟨rfl, rfl, rfl, rfl, rfl⟩, rfl⟩

theorem driveChargingState_outputsOnly : DrivesOutputsOnly driveChargingState :=
  fun _ _ => ⟨⟨rfl, rfl, rfl, rfl, rfl⟩, rfl⟩

/-- Driving what a function makes of the result writes no more than driving it. -/
theorem DrivesOutputsOnly.comp {α β : Type} {drive : α → State → State} (h : DrivesOutputsOnly drive) (f : β → α) :
    DrivesOutputsOnly fun v => drive (f v) := fun v => h (f v)

/-- The shared result operation evaluates once, on an error and on a success. -/
theorem evaluatesOnceTo_settle {α : Type} {drive : α → State → State} (h : DrivesOutputsOnly drive)
    (r : Except ErrKind α) (s : State) : s.evaluatesOnceTo (settle drive r s) := by
  obtain ⟨k, -, hsettle⟩ | ⟨v, -, hsettle⟩ := settle_cases s drive r
  · rw [hsettle]
    exact evaluatesOnceTo_afterError s (errCode k)
  · obtain ⟨hinputs, hevals⟩ := evaluatesOnceTo_afterSuccess s
    obtain ⟨hdriven, hdrivenEvals⟩ := h v s.afterSuccess
    rw [hsettle]
    exact ⟨sameInputs_trans hinputs hdriven, hdrivenEvals.trans hevals⟩

theorem evaluatesOnceTo_of_settled {α : Type} {drive : α → State → State} {r : Except ErrKind α} {i : Instr}
    {s t : State} (h : DrivesOutputsOnly drive) (hexec : exec i s = .next (settle drive r s))
    (hnext : exec i s = .next t) : s.evaluatesOnceTo t := by
  obtain rfl := Host.Outcome.next.inj (hexec.symm.trans hnext)
  exact evaluatesOnceTo_settle h r s

/-! ### The obligation -/

/-- Settles O4: every operation that answers settles a result, and what it drives are outputs. -/
theorem noOperationWritesAnInputPort : Obligations.NoOperationWritesAnInputPort := by
  unfold Obligations.NoOperationWritesAnInputPort
  intro i s t hnext
  cases i with
  | decode => exact evaluatesOnceTo_of_settled driveSnapshot_outputsOnly rfl hnext
  | encode =>
    by_cases hfits : FitsRegisters s.inSnap
    · exact evaluatesOnceTo_of_settled driveBytes_outputsOnly (execEncode_of_fits s hfits) hnext
    · rw [execEncode_of_unfit s hfits] at hnext
      cases hnext
  | fltDec => exact evaluatesOnceTo_of_settled driveFaults_outputsOnly rfl hnext
  | fltEnc => exact evaluatesOnceTo_of_settled driveBytes_outputsOnly rfl hnext
  | stsDec => exact evaluatesOnceTo_of_settled driveStatus_outputsOnly rfl hnext
  | stsEnc => exact evaluatesOnceTo_of_settled (driveBytes_outputsOnly.comp fun b => [b]) rfl hnext
  | cstDec =>
    exact evaluatesOnceTo_of_settled (driveChargingState_outputsOnly.comp
      fun v : ChargingState × LabelId => (codeOfChargingState v.1, v.2)) rfl hnext
  | cstEnc => exact evaluatesOnceTo_of_settled (driveBytes_outputsOnly.comp fun code => [code]) rfl hnext

end Sys2Proof.Machine
end

section
/-! PROOFS. Byte operands are big-endian, and a write keeps the bytes around it (20_memory.md R50 to R53). -/

namespace Sys2Proof.Machine

/-! ### Reading registers -/

/-- A four-byte field at an even register is its two registers, the high one first. -/
theorem memRead_four_eq_imageWords (B : List Byte) (k : Nat) :
    memRead B (4 * k) 4 = imageWord B (2 * k) * 65536 + imageWord B (2 * k + 1) := by
  have high_offset : 2 * (2 * k) = 4 * k := by omega
  have low_offset : 2 * (2 * k + 1) = 4 * k + 2 := by omega
  rw [memRead_four, imageWord, imageWord, high_offset, low_offset]

/-! ### Writing inside the buffer -/

theorem memRead_memWrite_same {out : List Byte} {a : Nat} (h : a ≤ out.length) (n v : Nat) :
    memRead (memWrite out a n v) a n = v % 256 ^ n := by
  have read_back := memRead_bigEndian_append (out.take a) (out.drop (a + n)) n v
  rwa [List.length_take_of_le h] at read_back

theorem memWrite_length {out : List Byte} {a n : Nat} (h : a + n ≤ out.length) (v : Nat) :
    (memWrite out a n v).length = out.length := by
  simp only [memWrite, List.length_append, List.length_take, List.length_drop, bigEndian_length]
  omega

theorem byteAt_memWrite_before {out : List Byte} {a i : Nat} (h : a ≤ out.length) (hi : i < a) (n v : Nat) :
    byteAt (memWrite out a n v) i = byteAt out i := by
  have in_prefix : i < (out.take a).length := by rwa [List.length_take_of_le h]
  rw [byteAt, byteAt, memWrite, List.append_assoc, List.getD_append _ _ _ _ in_prefix,
    List.getD_eq_getElem?_getD, List.getElem?_take_of_lt hi, List.getD_eq_getElem?_getD]

theorem byteAt_memWrite_after {out : List Byte} {a n i : Nat} (h : a ≤ out.length) (hi : a + n ≤ i) (v : Nat) :
    byteAt (memWrite out a n v) i = byteAt out i := by
  have written : (out.take a ++ bigEndian n v).length = a + n := by
    rw [List.length_append, List.length_take_of_le h, bigEndian_length]
  rw [byteAt, byteAt, memWrite, List.getD_append_right _ _ _ _ (written ▸ hi), written,
    List.getD_eq_getElem?_getD, List.getElem?_drop, Nat.add_sub_cancel' hi, List.getD_eq_getElem?_getD]

/-! ### The obligation -/

/-- Settles O54: the reads from the laws of `memRead`, the write from those of the three parts of the written buffer. -/
theorem operandBytesAreBigEndian : Obligations.OperandBytesAreBigEndian := by
  unfold Obligations.OperandBytesAreBigEndian
  refine ⟨fun B a => ⟨memRead_one B a, memRead_two B a⟩, memRead_four, memRead_four_eq_imageWords, memRead_lt,
    fun out a n v hinside => ?_⟩
  have hstart : a ≤ out.length := by omega
  refine ⟨memRead_memWrite_same hstart n v, memWrite_length hinside v, fun i houtside => ?_⟩
  obtain hbefore | hafter := houtside
  · exact byteAt_memWrite_before hstart hbefore n v
  · exact byteAt_memWrite_after hstart hafter v

end Sys2Proof.Machine
end

section
/-! PROOFS. Operation codes and their words (30_encoding.md R80, R97). -/

namespace Sys2Proof.Machine

/-! ### Both directions -/

/-- The word of an operation decodes to it, and the bytes after the word are left. -/
theorem decode_encode_append (i : Instr) (rest : List Byte) : decode (encode i ++ rest) = .ok (i, rest) := by
  obtain ⟨-, -, word_decodes⟩ := selectRoundTrip i
  exact word_decodes rest

/-- No code is reserved: each of the eight is the code of the operation it selects. -/
@[simp] theorem encodeOp_decodeOp : ∀ op : OpCode, encodeOp (decodeOp op) = op := by decide

/-! ### The obligations -/

/-- Settles O1: each byte of the table is the word that `encode` gives its operation. -/
theorem tableWordsSelectTheirOperations : Obligations.TableWordsSelectTheirOperations :=
  ⟨decode_encode_append .decode [], decode_encode_append .encode [], decode_encode_append .fltDec [],
    decode_encode_append .fltEnc [], decode_encode_append .stsDec [], decode_encode_append .stsEnc [],
    decode_encode_append .cstDec [], decode_encode_append .cstEnc []⟩

/-- Settles O2: `decodeOp` and `encodeOp` are inverse to each other. -/
theorem selectCodesRoundTrip : Obligations.SelectCodesRoundTrip :=
  ⟨fun i rest _ => decode_encode_append i rest, encodeOp_decodeOp⟩

end Sys2Proof.Machine
end

section
/-! PROOFS. DECODE and ENCODE contain the small codecs (30_encoding.md R81). -/

namespace Sys2Proof.Machine

/-! ### Lanes -/

theorem oneByteOperand_eq_ofNat_lane (u : State) : oneByteOperand u = BitVec.ofNat 8 (lane u.inBytes 0) := by
  rw [← oneByteOperand_toNat, BitVec.ofNat_toNat, BitVec.setWidth_eq]

theorem be32_congr {v w : Lanes} {i j : Nat} (h : ∀ k < 4, lane v (i + k) = lane w (j + k)) :
    be32 v i = be32 w j := by
  rw [be32_eq_memRead, be32_eq_memRead]
  exact memRead_congr h

/-- Big-endian reads of one width are equal only when each byte they cover is. -/
theorem byteAt_eq_of_memRead_eq {B C : List Byte} {a b n : Nat} (h : memRead B a n = memRead C b n) :
    ∀ k < n, byteAt B (a + k) = byteAt C (b + k) := by
  induction n with
  | zero => exact fun k hk => absurd hk (Nat.not_lt_zero k)
  | succ n ih =>
    have last_lt := byteAt_lt B (a + n)
    have last_lt' := byteAt_lt C (b + n)
    simp only [memRead] at h
    intro k hk
    obtain hk | rfl := Nat.lt_succ_iff_lt_or_eq.mp hk
    · exact ih (by omega) k hk
    · omega

theorem lane_eq_of_be32_eq {v w : Lanes} {i j : Nat} (h : be32 v i = be32 w j) :
    ∀ k < 4, lane v (i + k) = lane w (j + k) := by
  rw [be32_eq_memRead, be32_eq_memRead] at h
  exact byteAt_eq_of_memRead_eq h

/-! ### What the small operations answer -/

theorem execStsDec_eq (u : State) : exec .stsDec u =
    .next (driveStatus ((oneByteOperand u).getLsbD 7, oneByteOperand u &&& 0x7F) u.afterSuccess) := rfl

theorem execCstDec_eq (u : State) : exec .cstDec u =
    .next (driveChargingState
      (oneByteOperand u, labelOfChargingState (chargingStateOfCode (oneByteOperand u))) u.afterSuccess) := by
  show execCstDec u = _
  rw [execCstDec, cstDec, settle_ok, decodedState_params, codeOfChargingState_ofCode]

/-- STS_ENC of a brightness in range packs both fields in lane 0. -/
theorem execStsEnc_of_le (u : State) (h : u.inSnap.brightness.toNat ≤ 100) : ∃ v : State,
    exec .stsEnc u = .next v ∧ v.err = 0 ∧
    lane v.outBytes 0 = (if u.inSnap.loadOn then 128 else 0) + u.inSnap.brightness.toNat := by
  obtain ⟨c, hc, hpacked⟩ := (stsEnc_spec u.inSnap.loadOn u.inSnap.brightness).1 h
  refine ⟨driveBytes [c] u.afterSuccess, ?_, rfl, ?_⟩
  · show execStsEnc u = _
    rw [execStsEnc, hc, settle_ok]
  · rw [driveBytes_outBytes, lane_driveLanes _ _ _ (by decide), if_pos (by simp), ← hpacked]
    rfl

/-- FLT_ENC of fault labels drives their word on lanes 0 to 3. -/
theorem execFltEnc_be32 (u : State) (h : OnlyFaultLabels params u.inSnap.faults) : ∃ v : State,
    exec .fltEnc u = .next v ∧ v.err = 0 ∧ be32 v.outBytes 0 = (u.inSnap.faults.setWidth 32).toNat :=
  ⟨_, execFltEnc_of_labels u h, rfl, be32_driveLanes _ (BitVec.isLt _) _⟩

/-! ### What ENCODE answers -/

/-- Everything ENCODE can answer: the refusal, RangeError, FaultNameError, or the 70 lanes of its writes. -/
theorem execEncode_cases (s : State) :
    (¬ FitsRegisters s.inSnap ∧ exec .encode s = .refused .encodeNotRepresentable) ∨
    (FitsRegisters s.inSnap ∧ 100 < s.inSnap.brightness.toNat ∧ exec .encode s = .next (s.afterError 2)) ∨
    (FitsRegisters s.inSnap ∧ s.inSnap.brightness.toNat ≤ 100 ∧ ¬ OnlyFaultLabels params s.inSnap.faults ∧
      exec .encode s = .next (s.afterError 3)) ∨
    (IsEncodable params s.inSnap ∧ ∃ st : Byte, ∃ out : Lanes,
      st.toNat = (if s.inSnap.loadOn then 128 else 0) + s.inSnap.brightness.toNat ∧
      exec .encode s = .next { s.afterSuccess with outBytes := out } ∧
      out.toList = assemble (blockWrites params s.inSnap st (s.inSnap.faults.setWidth 32))) := by
  by_cases hfits : FitsRegisters s.inSnap
  · by_cases hbright : s.inSnap.brightness.toNat ≤ 100
    · by_cases hfaults : OnlyFaultLabels params s.inSnap.faults
      · have hencodable : IsEncodable params s.inSnap := ⟨hfits, hbright, hfaults⟩
        exact .inr (.inr (.inr ⟨hencodable, execEncode_of_encodable s hencodable⟩))
      · refine .inr (.inr (.inl ⟨hfits, hbright, hfaults, ?_⟩))
        rw [execEncode_of_fits s hfits, encodeBlock_name _ hbright hfaults, settle_error]
        rfl
    · have hover : 100 < s.inSnap.brightness.toNat := Nat.lt_of_not_le hbright
      refine .inr (.inl ⟨hfits, hover, ?_⟩)
      rw [execEncode_of_fits s hfits, encodeBlock_range _ hover, settle_error]
      rfl
  · exact .inl ⟨hfits, execEncode_of_unfit s hfits⟩

/-- ENCODE succeeds on encodable Snapshots only, and its lanes are then the assembled writes. -/
theorem encoded_of_success {s t : State} (hnext : exec .encode s = .next t) (herr : t.err = 0) :
    IsEncodable params s.inSnap ∧ ∃ st : Byte,
      st.toNat = (if s.inSnap.loadOn then 128 else 0) + s.inSnap.brightness.toNat ∧
      t.outBytes.toList = assemble (blockWrites params s.inSnap st (s.inSnap.faults.setWidth 32)) := by
  obtain ⟨-, hexec⟩ | ⟨-, -, hexec⟩ | ⟨-, -, -, hexec⟩ | ⟨hencodable, st, out, hst, hexec, hout⟩ :=
    execEncode_cases s
  all_goals rw [hexec] at hnext
  · cases hnext
  all_goals obtain rfl := Host.Outcome.next.inj hnext
  · exact absurd herr (errCode_ne_zero .rangeError)
  · exact absurd herr (errCode_ne_zero .faultNameError)
  · exact ⟨hencodable, st, hst, hout⟩

section Assembled

variable {out : Lanes} {s : Snapshot} {st : Byte} {flags : BitVec 32}
  (hout : out.toList = assemble (blockWrites params s st flags))
include hout

theorem lane_status_of_assembled : lane out 64 = st.toNat := by
  have stored := memRead_assemble params s st flags (plainWrite 64 1 st.toNat) (by simp [blockWrites])
  rw [← hout] at stored
  calc lane out 64
    _ = memRead out.toList 64 1 := (memRead_one _ _).symm
    _ = st.toNat % 256 := stored
    _ = st.toNat := Nat.mod_eq_of_lt st.isLt

theorem be32_flags_of_assembled : be32 out 66 = flags.toNat := by
  have stored := memRead_assemble params s st flags (plainWrite 66 4 flags.toNat) (by simp [blockWrites])
  rw [← hout] at stored
  calc be32 out 66
    _ = memRead out.toList 66 4 := be32_eq_memRead _ _
    _ = flags.toNat % 4294967296 := stored
    _ = flags.toNat := Nat.mod_eq_of_lt flags.isLt

end Assembled

/-! ### DECODE contains the decoders -/

section Decode

variable {s t u v : State} (hlen : s.inLen = 70) (hnext : exec .decode s = .next t)
include hlen hnext

theorem eq_driveSnapshot_of_execDecode : t = driveSnapshot (decodedLanes s.inBytes) s.afterSuccess :=
  Host.Outcome.next.inj (hnext.symm.trans (execDecode_of_full s hlen))

theorem decode_contains_stsDec (hop : lane u.inBytes 0 = lane s.inBytes 64) (hsmall : exec .stsDec u = .next v) :
    sameResult .stsDec t v := by
  obtain rfl := eq_driveSnapshot_of_execDecode hlen hnext
  rw [execStsDec_eq, oneByteOperand_eq_ofNat_lane, hop] at hsmall
  obtain rfl := Host.Outcome.next.inj hsmall
  exact ⟨rfl, rfl⟩

theorem decode_contains_cstDec (hop : lane u.inBytes 0 = lane s.inBytes 65) (hsmall : exec .cstDec u = .next v) :
    sameResult .cstDec t v := by
  obtain rfl := eq_driveSnapshot_of_execDecode hlen hnext
  rw [execCstDec_eq, oneByteOperand_eq_ofNat_lane, hop] at hsmall
  obtain rfl := Host.Outcome.next.inj hsmall
  exact ⟨rfl, rfl⟩

theorem decode_contains_fltDec (hfour : u.inLen = 4) (hop : ∀ k < 4, lane u.inBytes k = lane s.inBytes (66 + k))
    (hsmall : exec .fltDec u = .next v) : v.err = 0 ∧ sameResult .fltDec t v := by
  obtain rfl := eq_driveSnapshot_of_execDecode hlen hnext
  have same_word : be32 u.inBytes 0 = be32 s.inBytes 66 :=
    be32_congr fun k hk => by rw [Nat.zero_add, hop k hk]
  rw [execFltDec_of_four u hfour, same_word] at hsmall
  obtain rfl := Host.Outcome.next.inj hsmall
  exact ⟨rfl, rfl⟩

end Decode

/-! ### ENCODE contains the encoders -/

section Encode

variable {s t u v : State} (hnext : exec .encode s = .next t) (herr : t.err = 0)
include hnext herr

theorem encode_contains_stsEnc (hop : sameOperand .stsEnc s u) (hsmall : exec .stsEnc u = .next v) :
    v.err = 0 ∧ lane v.outBytes 0 = lane t.outBytes 64 := by
  obtain ⟨⟨-, hbright, -⟩, st, hst, hout⟩ := encoded_of_success hnext herr
  obtain ⟨same_load, same_bright⟩ := hop
  obtain ⟨w, hexec, hok, hpacked⟩ := execStsEnc_of_le u (same_bright ▸ hbright)
  obtain rfl := Host.Outcome.next.inj (hsmall.symm.trans hexec)
  refine ⟨hok, ?_⟩
  rw [hpacked, lane_status_of_assembled hout, hst, same_load, same_bright]

theorem encode_contains_fltEnc (hop : sameOperand .fltEnc s u) (hsmall : exec .fltEnc u = .next v) :
    v.err = 0 ∧ ∀ k < 4, lane v.outBytes k = lane t.outBytes (66 + k) := by
  obtain ⟨⟨-, -, hfaults⟩, st, -, hout⟩ := encoded_of_success hnext herr
  have same_faults : s.inSnap.faults = u.inSnap.faults := hop
  obtain ⟨w, hexec, hok, hword⟩ := execFltEnc_be32 u (same_faults ▸ hfaults)
  obtain rfl := Host.Outcome.next.inj (hsmall.symm.trans hexec)
  have same_word : be32 v.outBytes 0 = be32 t.outBytes 66 := by
    rw [hword, be32_flags_of_assembled hout, same_faults]
  refine ⟨hok, fun k hk => ?_⟩
  have same_lane := lane_eq_of_be32_eq same_word k hk
  rwa [Nat.zero_add] at same_lane

end Encode

/-! ### The obligation -/

/-- Settles O40: a DECODE of 70 lanes hands each decoder its bytes, and a successful ENCODE stores what the encoders
give. -/
theorem blockOperationsContainTheSmallCodecs : Obligations.BlockOperationsContainTheSmallCodecs :=
  ⟨fun _ _ hlen hnext _ _ => ⟨decode_contains_stsDec hlen hnext, decode_contains_cstDec hlen hnext,
      decode_contains_fltDec hlen hnext⟩,
    fun _ _ hnext herr _ _ => ⟨encode_contains_stsEnc hnext herr, encode_contains_fltEnc hnext herr⟩⟩

end Sys2Proof.Machine
end

section
/-! PROOFS. What DECODE reads from the 70 lanes, field by field, and which bytes it does not read (40_decoder.md). The
Snapshot that DECODE drives is the block's, so each field is its transform of the lanes at the layout's offset. -/

namespace Sys2Proof.Machine

/-! ### The decimal transforms, in terms of the lanes -/

/-- DEC ×0.1 (40_decoder.md R125). -/
theorem toNat_decAt_tenth (p : Params) (v : Lanes) (o : Nat) :
    (decAt p v.toList .tenth o 2).toNat = be16 v o * 10 := by
  rw [toNat_decAt_two, hundredthsOfRaw_tenth]

/-- DEC ×0.01 (40_decoder.md R126). -/
theorem toNat_decAt_hundredth (p : Params) (v : Lanes) (o : Nat) :
    (decAt p v.toList .hundredth o 2).toNat = be16 v o := by
  rw [toNat_decAt_two, hundredthsOfRaw_hundredth]

/-- DEC ×1 of one register (40_decoder.md R127). -/
theorem toNat_decAt_unit (p : Params) (v : Lanes) (o : Nat) :
    (decAt p v.toList .unit o 2).toNat = be16 v o * 100 := by
  rw [toNat_decAt_two, hundredthsOfRaw_unit]

/-- DEC ×1 of two registers, the high one first (40_decoder.md R127). -/
theorem toNat_decAt_unit_wide (p : Params) (v : Lanes) (o : Nat) :
    (decAt p v.toList .unit o 4).toNat = be32 v o * 100 := by
  rw [toNat_decAt_four, hundredthsOfRaw_unit]

/-- DEC ÷10000 of one register, at this model's `DEC_ROUND` (40_decoder.md R128). -/
theorem toNat_decAt_energy (v : Lanes) (o : Nat) :
    (decAt params v.toList .tenThousandth o 2).toNat = (be16 v o + 50) / 100 := by
  rw [toNat_decAt_two, hundredthsOfRaw_tenThousandth]

/-- DEC ÷10000 of two registers, at this model's `DEC_ROUND` (40_decoder.md R128). -/
theorem toNat_decAt_energy_wide (v : Lanes) (o : Nat) :
    (decAt params v.toList .tenThousandth o 4).toNat = (be32 v o + 50) / 100 := by
  rw [toNat_decAt_four, hundredthsOfRaw_tenThousandth]

/-! ### The obligations on the numeric fields -/

/-- Settles O16: INT16 at each of the four offsets. -/
theorem decodeReadsTheIntegerFields : Obligations.DecodeReadsTheIntegerFields := fun s hlen =>
  ⟨_, execDecode_of_full s hlen, rfl, int16At_toNat _ 0, int16At_toNat _ 42, int16At_toNat _ 44, int16At_toNat _ 46⟩

/-- Settles O17: INT8S at each of the two offsets. -/
theorem decodeReadsTheTemperatures : Obligations.DecodeReadsTheTemperatures := fun s hlen =>
  ⟨_, execDecode_of_full s hlen, rfl, int8sAt_toInt _ 6, int8sAt_toInt _ 7⟩

/-- Settles O18: DEC ×0.1 at each of the five offsets. -/
theorem decodeReadsTheTenthFields : Obligations.DecodeReadsTheTenthFields := fun s hlen =>
  ⟨_, execDecode_of_full s hlen, rfl, toNat_decAt_tenth _ _ 2, toNat_decAt_tenth _ _ 8, toNat_decAt_tenth _ _ 14,
    toNat_decAt_tenth _ _ 22, toNat_decAt_tenth _ _ 24⟩

/-- Settles O19: DEC ×0.01 at each of the five offsets. -/
theorem decodeReadsTheHundredthFields : Obligations.DecodeReadsTheHundredthFields := fun s hlen =>
  ⟨_, execDecode_of_full s hlen, rfl, toNat_decAt_hundredth _ _ 4, toNat_decAt_hundredth _ _ 10,
    toNat_decAt_hundredth _ _ 16, toNat_decAt_hundredth _ _ 26, toNat_decAt_hundredth _ _ 28⟩

/-- Settles O20: DEC ×1 at the six offsets of one register and the two of a register pair. -/
theorem decodeReadsTheUnscaledFields : Obligations.DecodeReadsTheUnscaledFields := fun s hlen =>
  ⟨_, execDecode_of_full s hlen, rfl, toNat_decAt_unit _ _ 12, toNat_decAt_unit _ _ 18, toNat_decAt_unit _ _ 30,
    toNat_decAt_unit _ _ 32, toNat_decAt_unit _ _ 34, toNat_decAt_unit _ _ 36, toNat_decAt_unit_wide _ _ 48,
    toNat_decAt_unit_wide _ _ 52⟩

/-- Settles O21: DEC ÷10000 at the two offsets of one register and the two of a register pair. -/
theorem decodeRoundsTheEnergyFields : Obligations.DecodeRoundsTheEnergyFields :=
  ⟨params_decRound, fun s hlen =>
    ⟨_, execDecode_of_full s hlen, rfl, toNat_decAt_energy _ 38, toNat_decAt_energy _ 40, toNat_decAt_energy_wide _ 56,
      toNat_decAt_energy_wide _ 60⟩⟩

/-! ### The status byte, the charging state and the fault word -/

@[simp] theorem toNat_ofNat_lane (v : Lanes) (i : Nat) : (BitVec.ofNat 8 (lane v i)).toNat = lane v i :=
  Nat.mod_eq_of_lt (lane_lt v i)

theorem decodedLanes_loadOn (v : Lanes) : (decodedLanes v).1.loadOn = true ↔ 128 ≤ lane v 64 := by
  have top_bit := (status_byte_cases (BitVec.ofNat 8 (lane v 64))).1
  rw [toNat_ofNat_lane] at top_bit
  rw [← decide_eq_true_iff (p := 128 ≤ lane v 64), ← top_bit]
  rfl

theorem decodedLanes_chargingState_toNat (v : Lanes) : (decodedLanes v).1.chargingState.toNat = lane v 65 :=
  toNat_ofNat_lane v 65

theorem decodedLanes_lid_toNat (v : Lanes) :
    (decodedLanes v).2.toNat = if lane v 65 ≤ 6 then lane v 65 else 7 := by
  have labelled := labelOfChargingState_toNat (BitVec.ofNat 8 (lane v 65))
  rwa [toNat_ofNat_lane] at labelled

/-- The word at lane 66 fits the 32 bits of the flag word, so no bit of it is lost. -/
theorem getLsbD_decodedLanes_faults (v : Lanes) (i : Nat) :
    (decodedLanes v).1.faults.getLsbD i = (decide (IsFaultBit params i) && (be32 v 66).testBit i) := by
  have carried : (BitVec.ofNat 32 (be32 v 66)).toNat = be32 v 66 := Nat.mod_eq_of_lt (be32_lt v 66)
  have named := getLsbD_faultsOfWord_eq params (BitVec.ofNat 32 (be32 v 66)) i
  rwa [← BitVec.testBit_toNat (BitVec.ofNat 32 _), carried] at named

/-- Settles O22: each codec inside DECODE reads its own lanes. -/
theorem decodeReadsStatusStateAndFaults : Obligations.DecodeReadsStatusStateAndFaults :=
  ⟨params_unknownPolicy, fun s hlen =>
    ⟨_, execDecode_of_full s hlen, rfl, decodedLanes_loadOn _, decodedLanes_brightness_toNat _,
      decodedLanes_chargingState_toNat _, decodedLanes_lid_toNat _, getLsbD_decodedLanes_faults _⟩⟩

/-! ### What reaches the Snapshot -/

/-- The offset and width of every field of the layout that is decoded without loss (30_encoding.md R83); the status byte,
the charging state and the fault word are read by the codecs DECODE contains. -/
def losslessReads : List (Nat × Nat) :=
  [(0, 2), (2, 2), (4, 2), (6, 1), (7, 1), (8, 2), (10, 2), (12, 2), (14, 2), (16, 2), (18, 2), (22, 2), (24, 2), (26, 2),
    (28, 2), (30, 2), (32, 2), (34, 2), (36, 2), (42, 2), (44, 2), (46, 2), (48, 4), (52, 4)]

/-- The offset and width of the four energy fields, whose transform rounds. -/
def energyReads : List (Nat × Nat) := [(38, 2), (40, 2), (56, 4), (60, 4)]

/-- The lanes whose byte a decoded Snapshot does not determine: the reserved bytes 20, 21, 68 and 69, the four energy
fields, and byte 66 with its unnamed bit (40_decoder.md R161). -/
def lossyLanes : List Nat := [20, 21, 38, 39, 40, 41, 56, 57, 58, 59, 60, 61, 62, 63, 66, 68, 69]

/-- A block enters the Snapshot through the lossless reads and the rounded energy fields alone. -/
theorem snapshotOfBlock_congr {B C : List Byte} {status : Bool × BitVec 8} {code : Byte} {F : LabelSet}
    (lossless : ∀ r ∈ losslessReads, memRead B r.1 r.2 = memRead C r.1 r.2)
    (energy : ∀ r ∈ energyReads, (memRead B r.1 r.2 + 50) / 100 = (memRead C r.1 r.2 + 50) / 100) :
    snapshotOfBlock params B status code F = snapshotOfBlock params C status code F := by
  simp only [losslessReads, energyReads, List.forall_mem_cons] at lossless energy
  simp only [snapshotOfBlock, int16At, int8sAt, decAt, hundredthsOfRaw_tenThousandth, lossless, energy]

theorem be32_div (v : Lanes) (i : Nat) : be32 v i / 2 ^ 16 = be16 v i := by
  have := be16_lt v (i + 2)
  rw [be32]; omega

/-- The fault set depends on bits 16 to 30 of the flag word alone. -/
theorem faultsOfWord_congr {m n : Nat} (h : m / 2 ^ 16 % 2 ^ 15 = n / 2 ^ 16 % 2 ^ 15) :
    faultsOfWord params (BitVec.ofNat 32 m) = faultsOfWord params (BitVec.ofNat 32 n) := by
  apply BitVec.eq_of_getLsbD_eq
  intro i _
  rw [getLsbD_faultsOfWord, getLsbD_faultsOfWord]
  by_cases hi : 16 ≤ i ∧ i ≤ 30
  · have bit_of_field : ∀ x : Nat, (BitVec.ofNat 32 x).getLsbD i = (x / 2 ^ 16 % 2 ^ 15).testBit (i - 16) := by
      intro x
      rw [BitVec.getLsbD_ofNat, Nat.testBit_mod_two_pow, Nat.testBit_div_two_pow, Nat.sub_add_cancel hi.1,
        decide_eq_true (show i < 32 by omega), decide_eq_true (show i - 16 < 15 by omega)]
    rw [bit_of_field m, bit_of_field n, h]
  · rw [decide_eq_false hi, Bool.false_and, Bool.false_and]

/-! ### Blocks that differ in lossy lanes only -/

section LossyLanes

variable {v w : Lanes} (same_lanes : ∀ k < 70, k ∉ lossyLanes → lane v k = lane w k)
include same_lanes

theorem memRead_lossless_eq : ∀ r ∈ losslessReads, memRead v.toList r.1 r.2 = memRead w.toList r.1 r.2 := by
  have covered : ∀ r ∈ losslessReads, ∀ k < r.2, r.1 + k < 70 ∧ r.1 + k ∉ lossyLanes := by decide
  intro r hr
  refine memRead_congr fun k hk => ?_
  obtain ⟨in_port, kept⟩ := covered r hr k hk
  exact same_lanes (r.1 + k) in_port kept

/-- Byte 67 is no lossy lane, so with the low seven bits of byte 66 all of bits 16 to 30 agree. -/
theorem faultsOfWord_be32_eq (same_high : lane v 66 % 128 = lane w 66 % 128) :
    faultsOfWord params (BitVec.ofNat 32 (be32 v 66)) = faultsOfWord params (BitVec.ofNat 32 (be32 w 66)) := by
  have same_low : lane v 67 = lane w 67 := same_lanes 67 (by decide) (by decide)
  have named_bits : ∀ x : Lanes, be32 x 66 / 2 ^ 16 % 2 ^ 15 = lane x 66 % 128 * 256 + lane x 67 := by
    intro x
    have := lane_lt x 67
    rw [be32_div, be16, show 66 + 1 = 67 from rfl]; omega
  exact faultsOfWord_congr (by rw [named_bits v, named_bits w, same_high, same_low])

/-- Blocks that agree in every other lane, in the named fault bits and in the rounded energy fields decode alike. -/
theorem decodedLanes_congr (same_high : lane v 66 % 128 = lane w 66 % 128)
    (energy : ∀ r ∈ energyReads,
      (memRead v.toList r.1 r.2 + 50) / 100 = (memRead w.toList r.1 r.2 + 50) / 100) :
    decodedLanes v = decodedLanes w := by
  rw [decodedLanes, decodedLanes, same_lanes 64 (by decide) (by decide), same_lanes 65 (by decide) (by decide),
    faultsOfWord_be32_eq same_lanes same_high, snapshotOfBlock_congr (memRead_lossless_eq same_lanes) energy]

end LossyLanes

/-- Settles O23: the two operands decode to one Snapshot and label, which are what each evaluation drives. -/
theorem decodeDoesNotDependOnReservedBytes : Obligations.DecodeDoesNotDependOnReservedBytes := by
  refine ⟨params_decRound, params_faultUnnamedBit, ?_⟩
  intro s t s' t' hs ht same_lanes same_high generated consumed cumGenerated cumConsumed hnext hnext'
  rw [be16_eq_memRead, be16_eq_memRead] at generated consumed
  rw [be32_eq_memRead, be32_eq_memRead] at cumGenerated cumConsumed
  have energy : ∀ r ∈ energyReads,
      (memRead s.inBytes.toList r.1 r.2 + 50) / 100 = (memRead t.inBytes.toList r.1 r.2 + 50) / 100 := by
    simp only [energyReads, List.forall_mem_cons]
    exact ⟨generated, consumed, cumGenerated, cumConsumed, List.forall_mem_nil _⟩
  have same_decoding := decodedLanes_congr same_lanes same_high energy
  obtain rfl := eq_driveSnapshot_of_execDecode hs hnext
  obtain rfl := eq_driveSnapshot_of_execDecode ht hnext'
  exact ⟨rfl, rfl, congrArg Prod.fst same_decoding, congrArg Prod.snd same_decoding⟩

/-! ### The obligations on the length -/

/-- Settles O14: the Snapshot and label of the 70 lanes, driven on the success state. -/
theorem decodeSucceedsOnSeventyBytes : Obligations.DecodeSucceedsOnSeventyBytes := fun s hlen =>
  ⟨(decodedLanes s.inBytes).1, (decodedLanes s.inBytes).2, execDecode_of_full s hlen⟩

/-- Settles O15: no operand of another length has 70 bytes, and the length is checked before every read. -/
theorem decodeOfAnotherLengthIsALengthError : Obligations.DecodeOfAnotherLengthIsALengthError := execDecode_of_not_full

end Sys2Proof.Machine
end

section
/-! PROOFS. What ENCODE answers, and which Snapshots it refuses (41_encoder.md R170, R175, R176, R212). -/

namespace Sys2Proof.Machine

/-! ### The operations that never refuse -/

theorem exec_eq_next_of_ne_encode {i : Instr} (h : i ≠ .encode) (s : State) : ∃ t, exec i s = .next t := by
  cases i with
  | encode => exact absurd rfl h
  | decode | fltDec | fltEnc | stsDec | stsEnc | cstDec | cstEnc => exact ⟨_, rfl⟩

/-! ### The table of bounds on the decoder's image -/

/-- The image's bounds are within the table's, but for the cumulative energies, whose bound in the image is one above
(70_reset_and_hazards.md R312). -/
theorem fitsRegisters_iff_of_image {s : Snapshot} (h : InDecoderImage params s) : FitsRegisters s ↔
    s.cumulativePowerGenerated.toNat ≠ 42949673 ∧ s.cumulativePowerConsumed.toNat ≠ 42949673 := by
  simp only [InDecoderImage, List.forall_mem_cons] at h
  rw [FitsRegisters]
  omega

/-! ### The DEC writes do not look at the codecs' bytes -/

theorem filter_scaled_blockWrites (p : Params) (s : Snapshot) (status status' : Byte) (flags flags' : BitVec 32) :
    (blockWrites p s status flags).filter (·.scaled) = (blockWrites p s status' flags').filter (·.scaled) := rfl

theorem mem_blockWrites_of_scaled {p : Params} {s : Snapshot} {status : Byte} {flags : BitVec 32} {w : FieldWrite}
    (hw : w ∈ blockWrites p s status flags) (hscaled : w.scaled = true) (status' : Byte) (flags' : BitVec 32) :
    w ∈ blockWrites p s status' flags' := by
  have hfilter : w ∈ (blockWrites p s status flags).filter (·.scaled) := List.mem_filter.mpr ⟨hw, hscaled⟩
  rw [filter_scaled_blockWrites p s status status' flags flags'] at hfilter
  exact List.mem_of_mem_filter hfilter

/-! ### The policies for a Snapshot that does not fit -/

section Unfit

variable {s : Snapshot} (hunfit : ¬ FitsRegisters s)
include hunfit

/-- The overflow policy enters after the check alone, so every policy makes the same check. -/
theorem not_representable_of_unfit (policy : OverflowPolicy) :
    ¬ representable { params with encOverflow := policy } s = true := mt (representable_iff s).mp hunfit

theorem encodeResult_rangeError_of_unfit :
    encodeResult { params with encOverflow := .rangeError } s = some (.error .rangeError) :=
  if_neg (not_representable_of_unfit hunfit .rangeError)

theorem encodeResult_wrap_of_unfit :
    encodeResult { params with encOverflow := .wrap } s = some (encodeBlock params s) :=
  if_neg (not_representable_of_unfit hunfit .wrap)

end Unfit

/-! ### The errors of a Snapshot that fits -/

section Fits

variable {s : State} (hfits : FitsRegisters s.inSnap)
include hfits

theorem execEncode_of_bright (hbright : 100 < s.inSnap.brightness.toNat) :
    exec .encode s = .next (s.afterError 2) := by
  rw [execEncode_of_fits s hfits, encodeBlock_range _ hbright, settle_error]
  rfl

theorem execEncode_of_unknown_label (hbright : s.inSnap.brightness.toNat ≤ 100)
    (hfaults : ¬ OnlyFaultLabels params s.inSnap.faults) : exec .encode s = .next (s.afterError 3) := by
  rw [execEncode_of_fits s hfits, encodeBlock_name _ hbright hfaults, settle_error]
  rfl

end Fits

/-! ### The obligations -/

/-- Settles O28: the 70 lanes of the writes, driven on the success state. -/
theorem encodeSucceedsOnEncodableSnapshots : Obligations.EncodeSucceedsOnEncodableSnapshots := fun s hencodable => by
  obtain ⟨-, out, -, hexec, -⟩ := execEncode_of_encodable s hencodable
  exact ⟨out, hexec⟩

/-- Settles O36: the brightness is checked before the labels. -/
theorem encodeReportsRangeBeforeName : Obligations.EncodeReportsRangeBeforeName :=
  ⟨params_errPriority, fun _ hfits => ⟨execEncode_of_bright hfits, execEncode_of_unknown_label hfits⟩⟩

/-- Settles O6: seven operations always answer a next state, and ENCODE refuses in one of its four cases. -/
theorem onlyUnfittingEncodeIsRefused : Obligations.OnlyUnfittingEncodeIsRefused := by
  refine ⟨params_encOverflow, params_encRound, fun i s => ⟨fun f => f.casesOn, fun r => ?_⟩⟩
  by_cases hi : i = .encode
  · subst hi
    obtain ⟨hunfit, hexec⟩ | ⟨hfits, -, hexec⟩ | ⟨hfits, -, -, hexec⟩ | ⟨⟨hfits, -⟩, _, _, -, hexec, -⟩ :=
      execEncode_cases s
    · rw [hexec]
      exact ⟨fun hr => ⟨rfl, hunfit, (Host.Outcome.refused.inj hr).symm⟩, fun ⟨_, _, hr⟩ => hr ▸ rfl⟩
    all_goals
      rw [hexec]
      exact ⟨nofun, fun ⟨_, hunfit, _⟩ => absurd hfits hunfit⟩
  · obtain ⟨t, hexec⟩ := exec_eq_next_of_ne_encode hi s
    rw [hexec]
    exact ⟨nofun, fun ⟨hencode, _⟩ => absurd hencode hi⟩

/-- Settles O25: the check is the table, of which the decoder's image meets every bound but one. -/
theorem representableIsTheTableOfBounds : Obligations.RepresentableIsTheTableOfBounds :=
  ⟨params_encRound, representable_iff, fun s himage => (representable_iff s).trans (fitsRegisters_iff_of_image himage)⟩

/-- Settles O26: the three policies part after one check; under `wrap` the writes are stored as for any Snapshot. -/
theorem unfittingSnapshotsFollowTheOverflowPolicy : Obligations.UnfittingSnapshotsFollowTheOverflowPolicy := by
  refine ⟨params_encOverflow, params_encRound, execEncode_of_unfit, fun s hunfit =>
    ⟨encodeResult_unfit s hunfit, encodeResult_rangeError_of_unfit hunfit, fun hbright hfaults => ?_⟩⟩
  obtain ⟨status, -, hblock⟩ := encodeBlock_ok s hbright hfaults
  refine ⟨_, (encodeResult_wrap_of_unfit hunfit).trans (congrArg some hblock), assemble_length _ _ _ _, ?_⟩
  exact fun w hw hscaled => memRead_assemble _ _ _ _ w (mem_blockWrites_of_scaled hw hscaled _ _)

end Sys2Proof.Machine
end

section
/-! PROOFS. Where ENCODE writes each field (41_encoder.md R171 to R211): the writes tile the buffer, and a field that
fits its register is read back at the layout's offset. -/

namespace Sys2Proof.Machine

/-! ### The writes tile the buffer -/

/-- The write covers byte `k`. -/
abbrev FieldWrite.Covers (k : Nat) (w : FieldWrite) : Prop := w.addr ≤ k ∧ k < w.addr + w.width

theorem countP_covers_of_lt {ws : List FieldWrite} {a k : Nat} (h : Contiguous a ws) (hk : k < a) :
    ws.countP (fun w => decide (w.Covers k)) = 0 := by
  induction ws generalizing a with
  | nil => rfl
  | cons w ws ih =>
    obtain ⟨haddr, hrest⟩ := h
    have not_here : ¬ w.Covers k := fun ⟨hle, _⟩ => by omega
    rw [List.countP_cons_of_neg (by simpa using not_here), ih hrest (by omega)]

/-- Writes without a gap cover each byte of their extent once. -/
theorem countP_covers_eq_one {ws : List FieldWrite} {a k : Nat} (h : Contiguous a ws) (hle : a ≤ k)
    (hlt : k < a + (ws.map (·.width)).sum) : ws.countP (fun w => decide (w.Covers k)) = 1 := by
  induction ws generalizing a with
  | nil => simp at hlt; omega
  | cons w ws ih =>
    obtain ⟨haddr, hrest⟩ := h
    rw [List.map_cons, List.sum_cons] at hlt
    by_cases hhere : k < a + w.width
    · have covers : w.Covers k := ⟨by omega, by omega⟩
      rw [List.countP_cons_of_pos (by simpa using covers), countP_covers_of_lt hrest hhere]
    · have not_here : ¬ w.Covers k := fun ⟨_, hk⟩ => by omega
      rw [List.countP_cons_of_neg (by simpa using not_here), ih hrest (by omega) (by omega)]

/-- Settles O27: the writes are contiguous from byte 0 and 70 bytes wide. -/
theorem encodeWritesEveryByteOnce : Obligations.EncodeWritesEveryByteOnce := by
  intro p s status flags
  refine ⟨assemble_length p s status flags, fun k hk => ?_, memRead_assemble p s status flags⟩
  rw [← List.countP_eq_length_filter]
  have width : ((blockWrites p s status flags).map (·.width)).sum = 70 := by
    simp [blockWrites, plainWrite, decWrite]
  exact countP_covers_eq_one (blockWrites_contiguous p s status flags) (Nat.zero_le k) (by omega)

/-! ### Every value fits its register -/

/-- A field that is not scaled comes from a carrier no wider than its register (41_encoder.md R172, R173). -/
theorem plain_value_lt (p : Params) (s : Snapshot) (status : Byte) (flags : BitVec 32) :
    ∀ w ∈ blockWrites p s status flags, w.scaled = false → w.value < 256 ^ w.width := by
  have tc8_lt : ∀ t : Int, tc8 t < 256 := fun t => by rw [tc8]; omega
  simp [blockWrites, plainWrite, decWrite, tc8_lt]
  omega

/-- On a Snapshot that fits its registers no write is narrowed. -/
theorem value_lt_of_fits {s : Snapshot} (hfits : FitsRegisters s) {status : Byte} {flags : BitVec 32} {w : FieldWrite}
    (hw : w ∈ blockWrites params s status flags) : w.value < 256 ^ w.width := by
  cases hscaled : w.scaled with
  | false => exact plain_value_lt _ _ _ _ w hw hscaled
  | true =>
    have checked := List.all_eq_true.mp ((representable_iff s).mpr hfits) w (mem_blockWrites_of_scaled hw hscaled 0 0)
    simpa [hscaled] using checked

/-! ### Reading a field back -/

section Stored

variable {out : Lanes} {s : Snapshot} {status : Byte} {flags : BitVec 32} (hfits : FitsRegisters s)
  (hout : out.toList = assemble (blockWrites params s status flags))
include hfits hout

theorem memRead_of_assembled :
    ∀ w ∈ blockWrites params s status flags, memRead out.toList w.addr w.width = w.value := by
  intro w hw
  rw [hout, memRead_assemble params s status flags w hw]
  exact Nat.mod_eq_of_lt (value_lt_of_fits hfits hw)

theorem lane_of_plainWrite {a v : Nat}
    (hw : plainWrite a 1 v ∈ blockWrites params s status flags := by simp [blockWrites]) :
    lane out a = v :=
  (memRead_one _ _).symm.trans (memRead_of_assembled hfits hout _ hw)

theorem be16_of_plainWrite {a v : Nat}
    (hw : plainWrite a 2 v ∈ blockWrites params s status flags := by simp [blockWrites]) :
    be16 out a = v :=
  (be16_eq_memRead _ _).trans (memRead_of_assembled hfits hout _ hw)

variable {a : Nat} {c : Hundredths}

/-- DEC ×0.1 (41_encoder.md R174), at this model's `ENC_ROUND`. -/
theorem be16_of_tenthWrite
    (hw : decWrite params .tenth a 2 c ∈ blockWrites params s status flags := by simp [blockWrites]) :
    be16 out a = (c.toNat + 5) / 10 :=
  ((be16_eq_memRead _ _).trans (memRead_of_assembled hfits hout _ hw)).trans (rawOfHundredths_tenth _)

/-- DEC ×0.01 (41_encoder.md R177). -/
theorem be16_of_hundredthWrite
    (hw : decWrite params .hundredth a 2 c ∈ blockWrites params s status flags := by simp [blockWrites]) :
    be16 out a = c.toNat :=
  ((be16_eq_memRead _ _).trans (memRead_of_assembled hfits hout _ hw)).trans (rawOfHundredths_hundredth params _)

/-- DEC ×1 in one register (41_encoder.md R178), at this model's `ENC_ROUND`. -/
theorem be16_of_unitWrite
    (hw : decWrite params .unit a 2 c ∈ blockWrites params s status flags := by simp [blockWrites]) :
    be16 out a = (c.toNat + 50) / 100 :=
  ((be16_eq_memRead _ _).trans (memRead_of_assembled hfits hout _ hw)).trans (rawOfHundredths_unit _)

/-- DEC ×1 in two registers (41_encoder.md R178), at this model's `ENC_ROUND`. -/
theorem be32_of_unitWrite
    (hw : decWrite params .unit a 4 c ∈ blockWrites params s status flags := by simp [blockWrites]) :
    be32 out a = (c.toNat + 50) / 100 :=
  ((be32_eq_memRead _ _).trans (memRead_of_assembled hfits hout _ hw)).trans (rawOfHundredths_unit _)

/-- DEC ÷10000 in one register (41_encoder.md R179). -/
theorem be16_of_energyWrite
    (hw : decWrite params .tenThousandth a 2 c ∈ blockWrites params s status flags := by simp [blockWrites]) :
    be16 out a = c.toNat * 100 :=
  ((be16_eq_memRead _ _).trans (memRead_of_assembled hfits hout _ hw)).trans (rawOfHundredths_tenThousandth params _)

/-- DEC ÷10000 in two registers (41_encoder.md R179). -/
theorem be32_of_energyWrite
    (hw : decWrite params .tenThousandth a 4 c ∈ blockWrites params s status flags := by simp [blockWrites]) :
    be32 out a = c.toNat * 100 :=
  ((be32_eq_memRead _ _).trans (memRead_of_assembled hfits hout _ hw)).trans (rawOfHundredths_tenThousandth params _)

end Stored

theorem toNat_tc8 (t : Int) : (tc8 t : Int) = t % 256 := by rw [tc8]; omega

/-! ### The obligations on the fields -/

/-- Settles O29: INT16 at each of the four offsets. -/
theorem encodeWritesTheIntegerFields : Obligations.EncodeWritesTheIntegerFields := fun s hencodable => by
  obtain ⟨_, out, -, hexec, hout⟩ := execEncode_of_encodable s hencodable
  obtain ⟨hfits, -, -⟩ := hencodable
  exact ⟨_, hexec, rfl, be16_of_plainWrite hfits hout, be16_of_plainWrite hfits hout, be16_of_plainWrite hfits hout,
    be16_of_plainWrite hfits hout⟩

/-- Settles O30: INT8S at each of the two offsets. -/
theorem encodeWritesTheTemperatures : Obligations.EncodeWritesTheTemperatures := fun s hencodable => by
  obtain ⟨_, out, -, hexec, hout⟩ := execEncode_of_encodable s hencodable
  obtain ⟨hfits, -, -⟩ := hencodable
  have controller : lane out 6 = tc8 s.inSnap.controllerTemperature.toInt := lane_of_plainWrite hfits hout
  have battery : lane out 7 = tc8 s.inSnap.batteryTemperature.toInt := lane_of_plainWrite hfits hout
  exact ⟨_, hexec, rfl, controller ▸ toNat_tc8 _, battery ▸ toNat_tc8 _⟩

/-- Settles O31: DEC ×0.1 at each of the five offsets. -/
theorem encodeWritesTheTenthFields : Obligations.EncodeWritesTheTenthFields := by
  refine ⟨params_encRound, fun s hencodable => ?_⟩
  obtain ⟨_, out, -, hexec, hout⟩ := execEncode_of_encodable s hencodable
  obtain ⟨hfits, -, -⟩ := hencodable
  exact ⟨_, hexec, rfl, be16_of_tenthWrite hfits hout, be16_of_tenthWrite hfits hout, be16_of_tenthWrite hfits hout,
    be16_of_tenthWrite hfits hout, be16_of_tenthWrite hfits hout⟩

/-- Settles O32: DEC ×0.01 at each of the five offsets. -/
theorem encodeWritesTheHundredthFields : Obligations.EncodeWritesTheHundredthFields := fun s hencodable => by
  obtain ⟨_, out, -, hexec, hout⟩ := execEncode_of_encodable s hencodable
  obtain ⟨hfits, -, -⟩ := hencodable
  exact ⟨_, hexec, rfl, be16_of_hundredthWrite hfits hout, be16_of_hundredthWrite hfits hout,
    be16_of_hundredthWrite hfits hout, be16_of_hundredthWrite hfits hout, be16_of_hundredthWrite hfits hout⟩

/-- Settles O33: DEC ×1 at the six offsets of one register and the two of a register pair. -/
theorem encodeWritesTheUnscaledFields : Obligations.EncodeWritesTheUnscaledFields := by
  refine ⟨params_encRound, fun s hencodable => ?_⟩
  obtain ⟨_, out, -, hexec, hout⟩ := execEncode_of_encodable s hencodable
  obtain ⟨hfits, -, -⟩ := hencodable
  exact ⟨_, hexec, rfl, be16_of_unitWrite hfits hout, be16_of_unitWrite hfits hout, be16_of_unitWrite hfits hout,
    be16_of_unitWrite hfits hout, be16_of_unitWrite hfits hout, be16_of_unitWrite hfits hout,
    be32_of_unitWrite hfits hout, be32_of_unitWrite hfits hout⟩

/-- Settles O34: DEC ÷10000 at the two offsets of one register and the two of a register pair. -/
theorem encodeWritesTheEnergyFields : Obligations.EncodeWritesTheEnergyFields := fun s hencodable => by
  obtain ⟨_, out, -, hexec, hout⟩ := execEncode_of_encodable s hencodable
  obtain ⟨hfits, -, -⟩ := hencodable
  exact ⟨_, hexec, rfl, be16_of_energyWrite hfits hout, be16_of_energyWrite hfits hout, be32_of_energyWrite hfits hout,
    be32_of_energyWrite hfits hout⟩

/-- Settles O35: the reserved register, and the bytes of the two codecs ENCODE contains around the charging state. -/
theorem encodeWritesReservedStatusStateAndFaults : Obligations.EncodeWritesReservedStatusStateAndFaults :=
    fun s hencodable => by
  obtain ⟨status, out, hstatus, hexec, hout⟩ := execEncode_of_encodable s hencodable
  obtain ⟨hfits, -, hfaults⟩ := hencodable
  refine ⟨_, hexec, rfl, be16_of_plainWrite hfits hout, ?_, lane_of_plainWrite hfits hout, fun i => ?_⟩
  · rw [← hstatus]
    exact lane_status_of_assembled hout
  · rw [decide_isFaultBit, ← testBit_faultWord _ hfaults]
    exact congrArg (Nat.testBit · i) (be32_flags_of_assembled hout)

end Sys2Proof.Machine
end

section
/-! PROOFS. On the decoder's image `ENC_ROUND` cannot be observed (41_encoder.md R216). -/

namespace Sys2Proof.Machine

/-! ### What the rounding can change -/

/-- ENCODE's result under another `ENC_ROUND` is the same when its writes are. -/
theorem encodeResult_encRound_congr {p : Params} {s : Snapshot} {r r' : Rounding}
    (same_writes : ∀ status flags,
      blockWrites { p with encRound := r } s status flags = blockWrites { p with encRound := r' } s status flags) :
    encodeResult { p with encRound := r } s = encodeResult { p with encRound := r' } s := by
  have same_check : representable { p with encRound := r } s = representable { p with encRound := r' } s := by
    rw [representable, representable, same_writes]
  have same_codecs : statusAndFlags { p with encRound := r } s = statusAndFlags { p with encRound := r' } s := rfl
  have same_block : encodeBlock { p with encRound := r } s = encodeBlock { p with encRound := r' } s := by
    rw [encodeBlock, encodeBlock, same_codecs]
    simp only [same_writes]
  rw [encodeResult, encodeResult, same_check, same_block]

/-! ### Values on the register's grid -/

/-- The parameters with ENCODE truncating. -/
abbrev truncating : Params := { params with encRound := .truncate }

theorem rawOfHundredths_truncating_tenth {c : Nat} (h : c % 10 = 0) :
    rawOfHundredths truncating .tenth c = rawOfHundredths params .tenth c := by
  have truncated : rawOfHundredths truncating .tenth c = c / 10 := by simp [rawOfHundredths, roundDiv, scaleFactor]
  rw [truncated, rawOfHundredths_tenth]
  omega

theorem rawOfHundredths_truncating_unit {c : Nat} (h : c % 100 = 0) :
    rawOfHundredths truncating .unit c = rawOfHundredths params .unit c := by
  have truncated : rawOfHundredths truncating .unit c = c / 100 := by simp [rawOfHundredths, roundDiv, scaleFactor]
  rw [truncated, rawOfHundredths_unit]
  omega

/-- The ×0.1 and ×1 fields of the image lie on their grids, and the other scales divide by nothing. -/
theorem blockWrites_truncating_of_image {s : Snapshot} (h : InDecoderImage params s) (status : Byte)
    (flags : BitVec 32) :
    blockWrites truncating s status flags = blockWrites params s status flags := by
  simp only [InDecoderImage, List.forall_mem_cons] at h
  simp only [blockWrites, decWrite, rawOfHundredths_hundredth, rawOfHundredths_tenThousandth,
    rawOfHundredths_truncating_tenth, rawOfHundredths_truncating_unit, h]

/-! ### The obligation -/

/-- Settles O39: both roundings give the same writes on the image. -/
theorem encodeRoundingIsUnobservableOnDecodedSnapshots : Obligations.EncodeRoundingIsUnobservableOnDecodedSnapshots :=
  fun _ himage => encodeResult_encRound_congr (blockWrites_truncating_of_image himage)

end Sys2Proof.Machine
end

section
/-! PROOFS. DECODE after ENCODE moves each field to its register's grid (41_encoder.md R214). The 70 bytes are given by
the writes they were assembled from, so decoding reads each field's own write back. -/

namespace Sys2Proof.Machine

/-! ### The three codecs undo one another -/

theorem ofInt_sext8_tc8 : ∀ t : BitVec 8, BitVec.ofInt 8 (sext8 (tc8 t.toInt)) = t := by decide

/-- A status byte that packs a brightness in range splits into what it packs. -/
theorem status_unpack {status b : Byte} {on : Bool} (hb : b.toNat ≤ 100)
    (h : status.toNat = (if on then 128 else 0) + b.toNat) : (status.getLsbD 7, status &&& 0x7F) = (on, b) := by
  obtain ⟨top_bit, low_bits⟩ := status_byte_cases status
  refine Prod.ext ?_ (BitVec.eq_of_toNat_eq (low_bits.trans ?_))
  · rw [top_bit, h]
    cases on with
    | true => simp
    | false => simp; omega
  · show status.toNat % 128 = b.toNat
    split at h <;> omega

/-- A set of fault labels is the one its own flag word names. -/
theorem faultsOfWord_setWidth {F : LabelSet} (h : OnlyFaultLabels params F) :
    faultsOfWord params (F.setWidth 32) = F := by
  apply BitVec.eq_of_getLsbD_eq
  intro i _
  rw [getLsbD_faultsOfWord, ← BitVec.testBit_toNat, testBit_faultWord F h, ← Bool.and_assoc, Bool.and_self]
  by_cases hF : F.getLsbD i = true
  · simp [hF, (onlyFaultLabels_iff F).mp h i hF]
  · simp [hF]

/-! ### The numeric fields -/

/-- Decoding what a Snapshot's writes stored gives each field at its register's grid. -/
theorem snapshotOfBlock_of_stored {B : List Byte} {s : Snapshot} {status : Byte} {flags : BitVec 32}
    (stored : ∀ w ∈ blockWrites params s status flags, memRead B w.addr w.width = w.value) :
    snapshotOfBlock params B (s.loadOn, s.brightness) s.chargingState s.faults = requantize s := by
  have energy : ∀ c : Nat, (c * 100 + 50) / 100 = c := fun c => by omega
  simp only [blockWrites, plainWrite, decWrite, List.forall_mem_append, List.forall_mem_cons, rawOfHundredths_tenth,
    rawOfHundredths_hundredth, rawOfHundredths_unit, rawOfHundredths_tenThousandth] at stored
  simp only [snapshotOfBlock, int16At, int8sAt, decAt, stored, hundredthsOfRaw_tenth, hundredthsOfRaw_hundredth,
    hundredthsOfRaw_unit, hundredthsOfRaw_tenThousandth, energy, ofInt_sext8_tc8, BitVec.ofNat_toNat,
    BitVec.setWidth_eq, requantize, gridTenth, gridUnit]

/-! ### The whole block -/

theorem decodedLanes_of_assembled {out : Lanes} {s : Snapshot} {status : Byte} (h : IsEncodable params s)
    (hstatus : status.toNat = (if s.loadOn then 128 else 0) + s.brightness.toNat)
    (hout : out.toList = assemble (blockWrites params s status (s.faults.setWidth 32))) :
    (decodedLanes out).1 = requantize s := by
  obtain ⟨hfits, hbright, hfaults⟩ := h
  have state : lane out 65 = s.chargingState.toNat := lane_of_plainWrite hfits hout
  rw [decodedLanes, lane_status_of_assembled hout, state, be32_flags_of_assembled hout]
  simp only [BitVec.ofNat_toNat, BitVec.setWidth_eq, status_unpack hbright hstatus, faultsOfWord_setWidth hfaults]
  exact snapshotOfBlock_of_stored (memRead_of_assembled hfits hout)

/-- What ENCODE drives on an encodable Snapshot decodes to its `Q`. -/
theorem exists_encoded {s : State} (h : IsEncodable params s.inSnap) : ∃ out : Lanes,
    exec .encode s = .next { s.afterSuccess with outBytes := out } ∧ (decodedLanes out).1 = requantize s.inSnap := by
  obtain ⟨status, out, hstatus, hexec, hout⟩ := execEncode_of_encodable s h
  exact ⟨out, hexec, decodedLanes_of_assembled h hstatus hout⟩

/-! ### `Q` itself -/

theorem gridTenth_of_mod_eq_zero {c : Nat} (h : c % 10 = 0) : gridTenth c = c := by
  rw [gridTenth]; omega

theorem gridUnit_of_mod_eq_zero {c : Nat} (h : c % 100 = 0) : gridUnit c = c := by
  rw [gridUnit]; omega

/-- The ×0.1 and ×1 fields of the image lie on their grids. -/
theorem requantize_of_image {s : Snapshot} (h : InDecoderImage params s) : requantize s = s := by
  simp only [InDecoderImage, List.forall_mem_cons] at h
  simp only [requantize, gridTenth_of_mod_eq_zero, gridUnit_of_mod_eq_zero, h, BitVec.ofNat_toNat, BitVec.setWidth_eq]

/-- `Q` of an encodable Snapshot is what some 70 bytes decode to. -/
theorem inDecoderImage_requantize {s : Snapshot} (h : IsEncodable params s) : InDecoderImage params (requantize s) := by
  obtain ⟨out, -, hdecoded⟩ := exists_encoded (s := { State.reset with inSnap := s }) h
  exact hdecoded ▸ inDecoderImage_decodedLanes out

theorem grid_near (c : Nat) :
    gridTenth c ≤ c + 5 ∧ c ≤ gridTenth c + 5 ∧ gridUnit c ≤ c + 50 ∧ c ≤ gridUnit c + 50 := by
  rw [gridTenth, gridUnit]; omega

/-! ### The obligation -/

/-- Settles O37: `Q(s)` is decoded from ENCODE's bytes, hence in the decoder's image, where `Q` changes nothing. -/
theorem decodeAfterEncodeRequantizes : Obligations.DecodeAfterEncodeRequantizes := by
  refine ⟨params_encRound, params_unknownPolicy, fun s hencodable => ?_,
    fun s hencodable => requantize_of_image (inDecoderImage_requantize hencodable), fun s => requantize_of_image,
    grid_near⟩
  obtain ⟨out, hexec, hdecoded⟩ := exists_encoded hencodable
  refine ⟨_, hexec, rfl, fun u hlen hbytes => ⟨_, execDecode_of_full u hlen, rfl, ?_⟩⟩
  rw [driveSnapshot_outSnap, hbytes]
  exact hdecoded

end Sys2Proof.Machine
end

section
/-! PROOFS. ENCODE after DECODE is refused, a RangeError, or the same block with its lossy parts normalised
(41_encoder.md R215). A decoded Snapshot is its own `Q`, so the block ENCODE gives decodes alike, and blocks that decode alike agree in
every byte that is decoded without loss. -/

namespace Sys2Proof.Machine

/-! ### Lanes covered by equal reads -/

/-- A lane that one of the reads covers is the same when the reads are. -/
theorem lane_eq_of_reads {v w : Lanes} {reads : List (Nat × Nat)} {k : Nat}
    (same : ∀ r ∈ reads, memRead v.toList r.1 r.2 = memRead w.toList r.1 r.2)
    (covered : ∃ r ∈ reads, r.1 ≤ k ∧ k < r.1 + r.2) : lane v k = lane w k := by
  obtain ⟨r, hr, hle, hlt⟩ := covered
  have same_byte := byteAt_eq_of_memRead_eq (same r hr) (k - r.1) (by omega)
  rwa [Nat.add_sub_cancel' hle] at same_byte

/-! ### Blocks that decode alike -/

theorem int16At_inj {v w : Lanes} {o : Nat} :
    int16At v.toList o = int16At w.toList o ↔ memRead v.toList o 2 = memRead w.toList o 2 := by
  rw [← BitVec.toNat_inj, int16At_toNat, int16At_toNat, be16_eq_memRead, be16_eq_memRead]

theorem int8sAt_inj {v w : Lanes} {o : Nat} :
    int8sAt v.toList o = int8sAt w.toList o ↔ memRead v.toList o 1 = memRead w.toList o 1 := by
  have hv : lane v o < 256 := lane_lt v o
  have hw : lane w o < 256 := lane_lt w o
  rw [← BitVec.toInt_inj, int8sAt_toInt, int8sAt_toInt, memRead_one, memRead_one]
  show _ ↔ lane v o = lane w o
  split <;> split <;> omega

/-- Of the four scales ÷10000 alone loses digits. -/
theorem hundredthsOfRaw_inj {p : Params} {sc : Scale} (hsc : sc ≠ .tenThousandth) {a b : Nat} :
    hundredthsOfRaw p sc a = hundredthsOfRaw p sc b ↔ a = b := by
  cases sc with
  | tenth => rw [hundredthsOfRaw_tenth, hundredthsOfRaw_tenth]; omega
  | hundredth => rw [hundredthsOfRaw_hundredth, hundredthsOfRaw_hundredth]
  | unit => rw [hundredthsOfRaw_unit, hundredthsOfRaw_unit]; omega
  | tenThousandth => exact absurd rfl hsc

theorem decAt_two_inj {p : Params} {v w : Lanes} {sc : Scale} {o : Nat} (hsc : sc ≠ .tenThousandth) :
    decAt p v.toList sc o 2 = decAt p w.toList sc o 2 ↔ memRead v.toList o 2 = memRead w.toList o 2 := by
  rw [← BitVec.toNat_inj, toNat_decAt_two, toNat_decAt_two, hundredthsOfRaw_inj hsc, be16_eq_memRead, be16_eq_memRead]

theorem decAt_four_inj {p : Params} {v w : Lanes} {sc : Scale} {o : Nat} (hsc : sc ≠ .tenThousandth) :
    decAt p v.toList sc o 4 = decAt p w.toList sc o 4 ↔ memRead v.toList o 4 = memRead w.toList o 4 := by
  rw [← BitVec.toNat_inj, toNat_decAt_four, toNat_decAt_four, hundredthsOfRaw_inj hsc, be32_eq_memRead, be32_eq_memRead]

section Alike

variable {v w : Lanes} (alike : (decodedLanes v).1 = (decodedLanes w).1)
include alike

theorem memRead_lossless_of_alike : ∀ r ∈ losslessReads, memRead v.toList r.1 r.2 = memRead w.toList r.1 r.2 := by
  simp only [decodedLanes, snapshotOfBlock, Snapshot.mk.injEq, int16At_inj, int8sAt_inj, decAt_two_inj, decAt_four_inj,
    ne_eq, reduceCtorEq, not_false_eq_true] at alike
  simp only [losslessReads, List.forall_mem_cons, alike, List.not_mem_nil, false_implies, implies_true, and_self]

/-- Both parts of the status byte are decoded. -/
theorem lane_status_of_alike : lane v 64 = lane w 64 := by
  have load : 128 ≤ lane v 64 ↔ 128 ≤ lane w 64 := by rw [← decodedLanes_loadOn, ← decodedLanes_loadOn, alike]
  have bright : lane v 64 % 128 = lane w 64 % 128 := by
    rw [← decodedLanes_brightness_toNat, ← decodedLanes_brightness_toNat, alike]
  have hv : lane v 64 < 256 := lane_lt v 64
  have hw : lane w 64 < 256 := lane_lt w 64
  omega

theorem lane_state_of_alike : lane v 65 = lane w 65 := by
  rw [← decodedLanes_chargingState_toNat, ← decodedLanes_chargingState_toNat, alike]

end Alike

/-! ### The flag word of a decoded Snapshot -/

/-- Encoding the faults of a block keeps bits 16 to 30 of its flag word. -/
theorem toNat_decoded_faults (v : Lanes) :
    ((decodedLanes v).1.faults.setWidth 32).toNat = be32 v 66 / 2 ^ 16 % 2 ^ 15 * 2 ^ 16 := by
  apply Nat.eq_of_testBit_eq
  intro i
  have onlyFaults : OnlyFaultLabels params (decodedLanes v).1.faults := onlyFaultLabels_faultsOfWord _
  rw [testBit_faultWord _ onlyFaults, getLsbD_decodedLanes_faults, decide_isFaultBit,
    Nat.testBit_mul_two_pow, Nat.testBit_mod_two_pow, Nat.testBit_div_two_pow]
  by_cases hlow : 16 ≤ i
  · have same_range : (i ≤ 30) = (i - 16 < 15) := by simp; omega
    simp [hlow, same_range, Nat.sub_add_cancel hlow]
  · simp [hlow]

/-- Those bits are byte 67 and all of byte 66 but its top bit. -/
theorem lanes_of_named_bits {v out : Lanes} (h : be32 out 66 = be32 v 66 / 2 ^ 16 % 2 ^ 15 * 2 ^ 16) :
    lane out 66 = lane v 66 % 128 ∧ lane out 67 = lane v 67 ∧ be16 out 68 = 0 := by
  have word : ∀ x : Lanes, be32 x 66 = (lane x 66 * 256 + lane x 67) * 65536 + be16 x 68 := fun _ => rfl
  have byte_lt := lane_lt v 67
  have byte_lt' := lane_lt out 67
  have tail_lt := be16_lt v 68
  have tail_lt' := be16_lt out 68
  rw [word, word] at h
  omega

/-! ### The block that ENCODE gives -/

section Reencoded

variable {v out : Lanes} {status : Byte} (h : IsEncodable params (decodedLanes v).1)
  (hstatus : status.toNat = (if (decodedLanes v).1.loadOn then 128 else 0) + (decodedLanes v).1.brightness.toNat)
  (hout : out.toList =
    assemble (blockWrites params (decodedLanes v).1 status ((decodedLanes v).1.faults.setWidth 32)))
include h hstatus hout

theorem decodedLanes_of_reencoded : (decodedLanes out).1 = (decodedLanes v).1 := by
  rw [decodedLanes_of_assembled h hstatus hout, requantize_of_image (inDecoderImage_decodedLanes v)]

/-- Lossless fields and both bytes before the flag word decode alike, so those lanes are kept. -/
theorem lane_kept_of_reencoded (same_low : lane out 67 = lane v 67) :
    ∀ k < 70, k ∉ lossyLanes → lane out k = lane v k := by
  have alike := decodedLanes_of_reencoded h hstatus hout
  have kept_cases : ∀ k < 70, k ∉ lossyLanes →
      (∃ r ∈ losslessReads, r.1 ≤ k ∧ k < r.1 + r.2) ∨ k = 64 ∨ k = 65 ∨ k = 67 := by decide
  intro k hk hkept
  obtain hcovered | rfl | rfl | rfl := kept_cases k hk hkept
  · exact lane_eq_of_reads (memRead_lossless_of_alike alike) hcovered
  · exact lane_status_of_alike alike
  · exact lane_state_of_alike alike
  · exact same_low

theorem normalizedFrom_of_reencoded : NormalizedFrom v out := by
  have hfits : FitsRegisters (decodedLanes v).1 := h.1
  obtain ⟨high, low, tail⟩ := lanes_of_named_bits ((be32_flags_of_assembled hout).trans (toNat_decoded_faults v))
  have generated : be16 out 38 = (decodedLanes v).1.powerGeneratedToday.toNat * 100 :=
    be16_of_energyWrite hfits hout
  have consumed : be16 out 40 = (decodedLanes v).1.powerConsumedToday.toNat * 100 :=
    be16_of_energyWrite hfits hout
  have cumGenerated : be32 out 56 = (decodedLanes v).1.cumulativePowerGenerated.toNat * 100 :=
    be32_of_energyWrite hfits hout
  have cumConsumed : be32 out 60 = (decodedLanes v).1.cumulativePowerConsumed.toNat * 100 :=
    be32_of_energyWrite hfits hout
  exact ⟨lane_kept_of_reencoded h hstatus hout low, be16_of_plainWrite hfits hout,
    generated.trans (congrArg (· * 100) (toNat_decAt_energy v 38)),
    consumed.trans (congrArg (· * 100) (toNat_decAt_energy v 40)),
    cumGenerated.trans (congrArg (· * 100) (toNat_decAt_energy_wide v 56)),
    cumConsumed.trans (congrArg (· * 100) (toNat_decAt_energy_wide v 60)), high, tail⟩

end Reencoded

/-! ### When the block is its own normal form -/

theorem eq_gridEnergy_iff (raw : Nat) : raw = gridEnergy raw ↔ raw % 100 = 0 := by
  rw [gridEnergy]; omega

/-- The reads that `NormalizedFrom` changes, but for the top bit of byte 66. -/
def normalizedReads : List (Nat × Nat) := [(20, 2), (38, 2), (40, 2), (56, 4), (60, 4), (68, 2)]

theorem eq_iff_of_normalizedFrom {B B' : Lanes} (h : NormalizedFrom B B') : B' = B ↔
    be16 B 20 = 0 ∧ lane B 66 < 128 ∧ be16 B 68 = 0 ∧ be16 B 38 % 100 = 0 ∧ be16 B 40 % 100 = 0 ∧
      be32 B 56 % 100 = 0 ∧ be32 B 60 % 100 = 0 := by
  obtain ⟨kept, reserved, generated, consumed, cumGenerated, cumConsumed, high, tail⟩ := h
  simp only [← eq_gridEnergy_iff]
  constructor
  · rintro rfl
    exact ⟨reserved, by omega, tail, generated, consumed, cumGenerated, cumConsumed⟩
  · rintro ⟨reserved', high', tail', generated', consumed', cumGenerated', cumConsumed'⟩
    have same_reads : ∀ r ∈ normalizedReads, memRead B'.toList r.1 r.2 = memRead B.toList r.1 r.2 := by
      simp only [normalizedReads, List.forall_mem_cons, ← be16_eq_memRead, ← be32_eq_memRead]
      exact ⟨reserved.trans reserved'.symm, generated.trans generated'.symm, consumed.trans consumed'.symm,
        cumGenerated.trans cumGenerated'.symm, cumConsumed.trans cumConsumed'.symm, tail.trans tail'.symm,
        List.forall_mem_nil _⟩
    have lossy_cases : ∀ k ∈ lossyLanes, (∃ r ∈ normalizedReads, r.1 ≤ k ∧ k < r.1 + r.2) ∨ k = 66 := by decide
    refine lanes_ext fun k hk => ?_
    by_cases hlossy : k ∈ lossyLanes
    · obtain hcovered | rfl := lossy_cases k hlossy
      · exact lane_eq_of_reads same_reads hcovered
      · omega
    · exact kept k hk hlossy

/-! ### What ENCODE answers on a decoded Snapshot -/

/-- A raw cumulative energy decodes to the image's one unfit value exactly when it is 4294967250 or more. -/
theorem fitsRegisters_decodedLanes (v : Lanes) :
    FitsRegisters (decodedLanes v).1 ↔ ¬ (4294967250 ≤ be32 v 56 ∨ 4294967250 ≤ be32 v 60) := by
  have generated : (decodedLanes v).1.cumulativePowerGenerated.toNat = _ := toNat_decAt_energy_wide v 56
  have consumed : (decodedLanes v).1.cumulativePowerConsumed.toNat = _ := toNat_decAt_energy_wide v 60
  have generated_lt := be32_lt v 56
  have consumed_lt := be32_lt v 60
  rw [fitsRegisters_iff_of_image (inDecoderImage_decodedLanes v), generated, consumed]
  omega

/-! ### The obligation -/

/-- Settles O38: ENCODE's cases on the decoded Snapshot, whose labels are fault labels, so that no FaultNameError is one of
them. -/
theorem encodeAfterDecodeNormalizes : Obligations.EncodeAfterDecodeNormalizes := by
  refine ⟨params_decRound, params_encOverflow, params_unknownPolicy, params_faultUnnamedBit, fun s hlen =>
    ⟨_, execDecode_of_full s hlen, rfl, fun u (hsnap : u.inSnap = (decodedLanes s.inBytes).1) => ?_⟩⟩
  have fits := fitsRegisters_decodedLanes s.inBytes
  have bright := decodedLanes_brightness_toNat s.inBytes
  rw [← hsnap] at fits bright
  split_ifs with hunfit hover
  · exact execEncode_of_unfit u fun hfits => fits.mp hfits hunfit
  · exact execEncode_of_bright (fits.mpr hunfit) (bright ▸ hover)
  · have hencodable : IsEncodable params u.inSnap :=
      ⟨fits.mpr hunfit, by omega, hsnap ▸ onlyFaultLabels_faultsOfWord _⟩
    obtain ⟨status, out, hstatus, hexec, hout⟩ := execEncode_of_encodable u hencodable
    rw [hsnap] at hencodable hstatus hout
    have hnormal := normalizedFrom_of_reencoded hencodable hstatus hout
    exact ⟨_, hexec, rfl, hnormal, eq_iff_of_normalizedFrom hnormal⟩

end Sys2Proof.Machine
end

section
/-! PROOFS. The fault codec: FLT_DEC, FLT_ENC and their two round trips (42_fault_bitmap.md). The word is handled as the
number at the lanes and as the set of its named bits, and each operation passes between the two. -/

namespace Sys2Proof.Machine

/-! ### The flag word at the lanes -/

/-- A word read from four lanes fits its 32 bits. -/
theorem toNat_ofNat_be32 (v : Lanes) (o : Nat) : (BitVec.ofNat 32 (be32 v o)).toNat = be32 v o :=
  Nat.mod_eq_of_lt (be32_lt v o)

theorem getLsbD_faultsOfWord_be32 (v : Lanes) (o i : Nat) :
    (faultsOfWord params (BitVec.ofNat 32 (be32 v o))).getLsbD i =
      (decide (IsFaultBit params i) && (be32 v o).testBit i) := by
  rw [getLsbD_faultsOfWord_eq, ← BitVec.testBit_toNat, toNat_ofNat_be32]

/-- The set of a word's faults lies in its low 32 identifiers, so the masked word is read back from it. -/
theorem setWidth_faultsOfWord (p : Params) (w : BitVec 32) : (faultsOfWord p w).setWidth 32 = w &&& faultMask p := by
  rw [faultsOfWord, BitVec.setWidth_setWidth_of_le _ (by decide), BitVec.setWidth_eq]

/-- The table of this model's unnamed bit, 31. -/
theorem faultMask_params : faultMask params = 0x7FFF0000#32 := by decide

theorem toNat_setWidth_faultsOfWord_be32 (v : Lanes) (o : Nat) :
    ((faultsOfWord params (BitVec.ofNat 32 (be32 v o))).setWidth 32).toNat = be32 v o &&& 0x7FFF0000 := by
  rw [setWidth_faultsOfWord, faultMask_params, BitVec.toNat_and, toNat_ofNat_be32]
  rfl

/-! ### FLT_DEC -/

/-- Settles O41: the set of the four lanes' word, driven on the success state. -/
theorem fltDecNamesTheSetBits : Obligations.FltDecNamesTheSetBits :=
  ⟨⟨params_faultUnnamedBit, isFaultBit_params⟩, fun s hlen =>
    ⟨_, execFltDec_of_four s hlen, getLsbD_faultsOfWord_be32 s.inBytes 0⟩⟩

/-- Settles O42: four bytes are always a success, and DECODE of 70 bytes hands the codec four. -/
theorem fltDecOfAnotherLengthIsALengthError : Obligations.FltDecOfAnotherLengthIsALengthError := by
  refine ⟨execFltDec_of_not_four, fun s t hfour hnext => ?_, fun s t hfull hnext => ?_⟩
  · obtain rfl := Host.Outcome.next.inj (hnext.symm.trans (execFltDec_of_four s hfour))
    rfl
  · obtain rfl := eq_driveSnapshot_of_execDecode hfull hnext
    rfl

/-! ### FLT_ENC -/

/-- Settles O43: the word of the set stands on lanes 0 to 3, and the driven bytes end there. -/
theorem fltEncSetsTheNamedBits : Obligations.FltEncSetsTheNamedBits := fun s hfaults => by
  refine ⟨_, execFltEnc_of_labels s hfaults, fun i => ?_, fun k hk => ?_⟩
  · rw [be32_driveLanes _ (BitVec.isLt _), testBit_faultWord _ hfaults, decide_isFaultBit]
  · exact lane_driveLanes_past _ _ k (by rwa [bigEndian_length])

/-- Settles O44: one label outside the table fails the check of the whole set. -/
theorem fltEncRejectsAnyOtherLabel : Obligations.FltEncRejectsAnyOtherLabel := fun s hother => by
  classical
  show execFltEnc s = _
  rw [execFltEnc, fltEnc_spec, if_neg hother, settle_error]
  rfl

/-! ### The round trips -/

/-- FLT_DEC of the word of a set of fault labels answers that set. -/
theorem execFltDec_of_encoded {u : State} {F : LabelSet} (hF : OnlyFaultLabels params F) (hlen : u.inLen = 4)
    (hword : be32 u.inBytes 0 = (F.setWidth 32).toNat) :
    exec .fltDec u = .next (driveFaults F u.afterSuccess) := by
  rw [execFltDec_of_four u hlen, hword, BitVec.ofNat_toNat, BitVec.setWidth_eq, faultsOfWord_setWidth hF]

/-- Settles O45: a set of fault labels is the one its word names, and a word's set keeps the word's named bits. -/
theorem faultCodecRoundTrips : Obligations.FaultCodecRoundTrips := by
  refine ⟨params_faultUnnamedBit, fun s t u hfaults hnext hlen hbytes => ?_, fun s t u hlen hnext hsame => ?_⟩
  · obtain ⟨v, hexec, -, hword⟩ := execFltEnc_be32 s hfaults
    obtain rfl := Host.Outcome.next.inj (hnext.symm.trans hexec)
    rw [← hbytes] at hword
    exact ⟨_, execFltDec_of_encoded hfaults hlen hword, rfl, rfl⟩
  · obtain rfl := Host.Outcome.next.inj (hnext.symm.trans (execFltDec_of_four s hlen))
    rw [driveFaults_faults] at hsame
    obtain ⟨v, hexec, hok, hword⟩ := execFltEnc_be32 u (hsame ▸ onlyFaultLabels_faultsOfWord _)
    refine ⟨v, hexec, hok, ?_⟩
    rw [hword, hsame, toNat_setWidth_faultsOfWord_be32]

end Sys2Proof.Machine
end

section
/-! PROOFS. The status byte codec: STS_DEC, STS_ENC and their two round trips (43_status_byte.md). A byte's number is
`128` for the flag plus the brightness, and each operation passes between the number and its two parts. -/

namespace Sys2Proof.Machine

/-! ### The parts of a byte -/

theorem getLsbD_seven_iff (b : Byte) : b.getLsbD 7 = true ↔ 128 ≤ b.toNat := by
  rw [(status_byte_cases b).1, decide_eq_true_iff]

theorem toNat_and_low_seven (b : Byte) : (b &&& 0x7F).toNat = b.toNat % 128 := (status_byte_cases b).2

/-- The byte is put together again from what STS_DEC makes of it. -/
theorem packed_parts (b : Byte) : (if b.getLsbD 7 then 128 else 0) + (b &&& 0x7F).toNat = b.toNat := by
  have byte_lt := b.isLt
  simp only [getLsbD_seven_iff, toNat_and_low_seven]
  split <;> omega

/-- A brightness of seven bits does not reach the flag, so both parts are read back from the packed number. -/
theorem parts_of_packed {b : Byte} {on : Bool} {bright : BitVec 8} (hbright : bright.toNat < 128)
    (hpacked : b.toNat = (if on then 128 else 0) + bright.toNat) : b.getLsbD 7 = on ∧ b &&& 0x7F = bright := by
  constructor
  · rw [Bool.eq_iff_iff, getLsbD_seven_iff, hpacked]
    cases on with
    | false => simpa using hbright
    | true => simp
  · apply BitVec.eq_of_toNat_eq
    rw [toNat_and_low_seven, hpacked]
    split <;> omega

/-! ### STS_DEC -/

/-- Settles O46: the two parts of lane 0, driven on the success state. -/
theorem stsDecSplitsTheByte : Obligations.StsDecSplitsTheByte := fun s => by
  refine ⟨_, _, execStsDec_eq s, ?_, ?_⟩
  · rw [getLsbD_seven_iff, oneByteOperand_toNat]
  · rw [toNat_and_low_seven, oneByteOperand_toNat]

/-! ### STS_ENC -/

theorem execStsEnc_eq_driveBytes {s : State} (h : s.inSnap.brightness.toNat ≤ 100) : ∃ b : Byte,
    exec .stsEnc s = .next (driveBytes [b] s.afterSuccess) ∧
    b.toNat = (if s.inSnap.loadOn then 128 else 0) + s.inSnap.brightness.toNat := by
  obtain ⟨b, hb, hpacked⟩ := (stsEnc_spec s.inSnap.loadOn s.inSnap.brightness).1 h
  refine ⟨b, ?_, hpacked⟩
  show execStsEnc s = _
  rw [execStsEnc, hb, settle_ok]

theorem execStsEnc_of_bright {s : State} (h : 100 < s.inSnap.brightness.toNat) :
    exec .stsEnc s = .next (s.afterError 2) := by
  show execStsEnc s = _
  rw [execStsEnc, (stsEnc_spec _ _).2 h, settle_error]
  rfl

theorem lane_zero_driveLanes_singleton (b : Byte) (v : Lanes) : lane (driveLanes [b] v) 0 = b.toNat := by
  rw [lane_driveLanes _ _ _ (by decide), if_pos (by simp)]
  rfl

/-- Settles O47: the packed byte stands on lane 0 and the driven bytes end there; above 100 the check fails before
anything is packed. -/
theorem stsEncPacksOrRangeErrors : Obligations.StsEncPacksOrRangeErrors := fun s => by
  refine ⟨fun hbright => ?_, execStsEnc_of_bright⟩
  obtain ⟨b, hexec, hpacked⟩ := execStsEnc_eq_driveBytes hbright
  refine ⟨_, hexec, ?_, fun k hk => ?_⟩
  · exact (lane_zero_driveLanes_singleton b _).trans hpacked
  · exact lane_driveLanes_past [b] _ k hk

/-! ### The round trips -/

/-- Settles O48: a legal flag and brightness are the parts of the byte they pack to, and a byte is packed of its parts. -/
theorem statusCodecRoundTrips : Obligations.StatusCodecRoundTrips := by
  refine ⟨fun s t u hbright hnext hbytes => ?_, fun s t u hnext hload hsame => ?_⟩
  · obtain ⟨v, hexec, -, hpacked⟩ := execStsEnc_of_le s hbright
    obtain rfl := Host.Outcome.next.inj (hnext.symm.trans hexec)
    rw [← hbytes, ← oneByteOperand_toNat] at hpacked
    obtain ⟨same_load, same_bright⟩ := parts_of_packed (by omega) hpacked
    exact ⟨_, execStsDec_eq u, same_load, same_bright⟩
  · obtain rfl := Host.Outcome.next.inj (hnext.symm.trans (execStsDec_eq s))
    rw [driveStatus_loadOn] at hload
    rw [driveStatus_brightness] at hsame
    have bright : u.inSnap.brightness.toNat = lane s.inBytes 0 % 128 := by
      rw [hsame, toNat_and_low_seven, oneByteOperand_toNat]
    split
    · next hlegal =>
      obtain ⟨v, hexec, hok, hpacked⟩ := execStsEnc_of_le u (bright ▸ hlegal)
      refine ⟨v, hexec, hok, ?_⟩
      rw [hpacked, hload, hsame, packed_parts, oneByteOperand_toNat]
    · next hover => exact ⟨_, execStsEnc_of_bright (by omega), rfl⟩

end Sys2Proof.Machine
end

section
/-! PROOFS. The charging-state lookups: CST_DEC, CST_ENC and their round trips (44_name_tables.md). A mode's label is
its code, so both operations keep the number; from 7 on CST_DEC's label is 7, which CST_ENC rejects. -/

namespace Sys2Proof.Machine

/-! ### CST_DEC -/

/-- Settles O49: the code of lane 0 and its label, driven on the success state. -/
theorem cstDecKeepsTheCodeAndLabelsIt : Obligations.CstDecKeepsTheCodeAndLabelsIt := by
  refine ⟨params_unknownPolicy, fun s => ⟨_, _, execCstDec_eq s, oneByteOperand_toNat s, ?_⟩⟩
  rw [labelOfChargingState_toNat, oneByteOperand_toNat]

/-! ### CST_ENC -/

theorem execCstEnc_of_mode {s : State} (h : s.inLid.toNat ≤ 6) :
    exec .cstEnc s = .next (driveBytes [s.inLid] s.afterSuccess) := by
  show execCstEnc s = _
  rw [execCstEnc, cstEnc_spec, if_pos h, settle_ok]

theorem execCstEnc_of_not_mode {s : State} (h : 6 < s.inLid.toNat) : exec .cstEnc s = .next (s.afterError 3) := by
  show execCstEnc s = _
  rw [execCstEnc, cstEnc_spec, if_neg (Nat.not_le.mpr h), settle_error]
  rfl

/-- Settles O50: the label stands on lane 0 and the driven bytes end there; from 7 on the lookup fails. -/
theorem cstEncAcceptsTheModeLabelsOnly : Obligations.CstEncAcceptsTheModeLabelsOnly := fun s =>
  ⟨fun hmode => ⟨_, execCstEnc_of_mode hmode, lane_zero_driveLanes_singleton s.inLid _,
      lane_driveLanes_past [s.inLid] _⟩,
    execCstEnc_of_not_mode⟩

/-! ### The round trips -/

/-- Settles O51: up to 6 code and label are one number in both directions, and the label of every larger code is 7. -/
theorem chargingStateLookupsRoundTrip : Obligations.ChargingStateLookupsRoundTrip := by
  refine ⟨fun s t u hnext hlid => ?_, fun s t u hmode hnext hbytes => ?_⟩
  · obtain rfl := Host.Outcome.next.inj (hnext.symm.trans (execCstDec_eq s))
    have label : u.inLid.toNat = if lane s.inBytes 0 ≤ 6 then lane s.inBytes 0 else 7 := by
      rw [hlid, driveChargingState_outLid, labelOfChargingState_toNat, oneByteOperand_toNat]
    split
    · next hmode =>
      rw [if_pos hmode] at label
      exact ⟨_, execCstEnc_of_mode (label ▸ hmode), rfl, (lane_zero_driveLanes_singleton _ _).trans label⟩
    · next hunrecognized =>
      rw [if_neg hunrecognized] at label
      exact ⟨_, execCstEnc_of_not_mode (by omega), rfl⟩
  · obtain rfl := Host.Outcome.next.inj (hnext.symm.trans (execCstEnc_of_mode hmode))
    have code : (oneByteOperand u).toNat = s.inLid.toNat := by
      rw [oneByteOperand_toNat, hbytes]
      exact lane_zero_driveLanes_singleton s.inLid _
    refine ⟨_, execCstDec_eq u, rfl, BitVec.eq_of_toNat_eq ?_⟩
    rw [driveChargingState_outLid, labelOfChargingState_toNat, code, if_pos hmode]

end Sys2Proof.Machine
end

section
/-! PROOFS. The fault table, whichever bit of 16 to 31 has no entry: its fifteen bits, and the codec's two functions on
them (44_name_tables.md R251, 42_fault_bitmap.md R220 to R226). -/

namespace Sys2Proof.Machine

/-! ### The entries -/

/-- The table's bits are those of the fault range without the unnamed one. -/
theorem filter_isFaultBit (p : Params) :
    (List.range 32).filter (fun i => decide (IsFaultBit p i)) = (List.range' 16 16).erase p.faultUnnamedBit := by
  have fault_range : (List.range 32).filter (fun i => decide (16 ≤ i ∧ i ≤ 31)) = List.range' 16 16 := by decide
  rw [(List.nodup_range' 1).erase_eq_filter, ← fault_range, List.filter_filter]
  refine List.filter_congr fun i _ => Bool.eq_iff_iff.mpr ?_
  rw [Bool.and_eq_true, bne_iff_ne, decide_eq_true_iff, decide_eq_true_iff]
  tauto

theorem length_filter_isFaultBit (p : Params) :
    ((List.range 32).filter fun i => decide (IsFaultBit p i)).length = nfault := by
  obtain ⟨hlo, hhi⟩ := p.unnamedInRange
  have in_range : p.faultUnnamedBit ∈ List.range' 16 16 := List.mem_range'_1.mpr ⟨hlo, Nat.lt_succ_of_le hhi⟩
  rw [filter_isFaultBit, List.length_erase_of_mem in_range, List.length_range']

/-! ### The codec -/

section FaultLabels

variable {p : Params} {F : LabelSet} (hF : OnlyFaultLabels p F)
include hF

/-- Fault labels lie below 32, so the flag word holds the whole set. -/
theorem getLsbD_setWidth_of_onlyFaultLabels (i : Nat) : (F.setWidth 32).getLsbD i = F.getLsbD i := by
  rw [BitVec.getLsbD_setWidth, Bool.and_eq_right_iff_imp]
  intro hi
  obtain ⟨-, hhi, -⟩ := hF i hi
  exact decide_eq_true (Nat.lt_succ_of_le hhi)

/-- A set of fault labels is the one its own flag word names, under any parameters. -/
theorem faultsOfWord_setWidth_of_onlyFaultLabels : faultsOfWord p (F.setWidth 32) = F := by
  refine BitVec.eq_of_getLsbD_eq fun i _ => ?_
  rw [getLsbD_faultsOfWord_eq, getLsbD_setWidth_of_onlyFaultLabels hF, Bool.and_eq_right_iff_imp]
  exact fun hi => decide_eq_true (hF i hi)

end FaultLabels

/-- Settles O57: the mask is the table for any unnamed bit, and a set of its labels is kept by the flag word. -/
theorem faultTableHasNfaultEntriesForAnyUnnamedBit : Obligations.FaultTableHasNfaultEntriesForAnyUnnamedBit := by
  classical
  refine fun p => ⟨length_filter_isFaultBit p, getLsbD_faultsOfWord_eq p, fun F hF => ?_, fun F hF => ?_⟩
  · exact ⟨F.setWidth 32, by rw [fltEncWord_spec, if_pos hF], faultsOfWord_setWidth_of_onlyFaultLabels hF,
      getLsbD_setWidth_of_onlyFaultLabels hF⟩
  · rw [fltEncWord_spec, if_neg hF]

end Sys2Proof.Machine
end

section
/-! PROOFS. The label texts are one to one (44_name_tables.md R250, R251, R255). The argument is on the table's two
columns: the identifiers are those of 10_state.md R28, and no text stands twice. -/

namespace Sys2Proof.Machine

/-! ### The table's columns -/

theorem labelTexts_lids :
    params.labelTexts.map (fun entry => entry.1.toNat) = List.range 8 ++ List.range' 16 15 := by decide

theorem labelTexts_texts_nodup : (params.labelTexts.map Prod.snd).Nodup := by decide

/-! ### Looking a text up -/

theorem labelText_isSome_iff_mem {p : Params} {lid : LabelId} :
    (labelText p lid).isSome = true ↔ lid.toNat ∈ p.labelTexts.map fun entry => entry.1.toNat := by
  rw [labelText, List.lookup_isSome_iff, List.mem_map]
  exact exists_congr fun entry => and_congr_right fun _ => by rw [beq_iff_eq, eq_comm, BitVec.toNat_inj]

theorem mem_labelTexts_of_labelText {p : Params} {lid : LabelId} {text : String}
    (h : labelText p lid = some text) : (lid, text) ∈ p.labelTexts := by
  obtain ⟨before, after, htable, -⟩ := List.lookup_eq_some_iff.mp h
  exact htable ▸ List.mem_append_cons_self

/-- Where no text stands twice, a text belongs to one identifier. -/
theorem lid_eq_of_labelText_eq {p : Params} (hnodup : (p.labelTexts.map Prod.snd).Nodup) {a b : LabelId} {text : String}
    (ha : labelText p a = some text) (hb : labelText p b = some text) : a = b :=
  congrArg Prod.fst <|
    List.inj_on_of_nodup_map hnodup (mem_labelTexts_of_labelText ha) (mem_labelTexts_of_labelText hb) rfl

/-! ### The obligation -/

theorem labelText_isSome_iff_isLabel (lid : LabelId) : (labelText params lid).isSome = true ↔ IsLabel params lid := by
  rw [labelText_isSome_iff_mem, labelTexts_lids, List.mem_append, List.mem_range, List.mem_range'_1, IsLabel,
    isFaultBit_params]
  omega

/-- Settles O53: the first column has exactly the labels' identifiers, and the second no text twice. -/
theorem labelTextsAreOneToOne : Obligations.LabelTextsAreOneToOne := by
  refine ⟨⟨labelText_isSome_iff_isLabel, fun a b ha hsame => ?_⟩, rfl⟩
  obtain ⟨text, htext⟩ := Option.isSome_iff_exists.mp ((labelText_isSome_iff_isLabel a).mpr ha)
  exact lid_eq_of_labelText_eq labelTexts_texts_nodup htext (hsame ▸ htext)

end Sys2Proof.Machine
end

section
/-! PROOFS. Which errors an operation reports, and what it leaves on the outputs (60_exceptions.md R271 to R274). Everything
an operation can answer is one of a few states, and both are read off those. -/

namespace Sys2Proof.Machine

/-! ### Everything an operation can answer -/

theorem next_unique {i : Instr} {s t u : State} (ht : exec i s = .next t) (hu : exec i s = .next u) : t = u :=
  Host.Outcome.next.inj (ht.symm.trans hu)

theorem execFltDec_cases (s : State) :
    (s.inLen ≠ 4 ∧ exec .fltDec s = .next (s.afterError 1)) ∨
    (s.inLen = 4 ∧ exec .fltDec s =
      .next (driveFaults (faultsOfWord params (BitVec.ofNat 32 (be32 s.inBytes 0))) s.afterSuccess)) := by
  by_cases h : s.inLen = 4
  · exact .inr ⟨h, execFltDec_of_four s h⟩
  · exact .inl ⟨h, execFltDec_of_not_four s h⟩

theorem execFltEnc_cases (s : State) :
    (¬ OnlyFaultLabels params s.inSnap.faults ∧ exec .fltEnc s = .next (s.afterError 3)) ∨
    (OnlyFaultLabels params s.inSnap.faults ∧ exec .fltEnc s =
      .next (driveBytes (bigEndian 4 (s.inSnap.faults.setWidth 32).toNat) s.afterSuccess)) := by
  by_cases h : OnlyFaultLabels params s.inSnap.faults
  · exact .inr ⟨h, execFltEnc_of_labels s h⟩
  · exact .inl ⟨h, fltEncRejectsAnyOtherLabel s h⟩

theorem execStsEnc_cases (s : State) :
    (100 < s.inSnap.brightness.toNat ∧ exec .stsEnc s = .next (s.afterError 2)) ∨
    (s.inSnap.brightness.toNat ≤ 100 ∧ ∃ b : Byte, exec .stsEnc s = .next (driveBytes [b] s.afterSuccess) ∧
      b.toNat = (if s.inSnap.loadOn then 128 else 0) + s.inSnap.brightness.toNat) := by
  by_cases h : s.inSnap.brightness.toNat ≤ 100
  · exact .inr ⟨h, execStsEnc_eq_driveBytes h⟩
  · exact .inl ⟨Nat.lt_of_not_le h, execStsEnc_of_bright (Nat.lt_of_not_le h)⟩

theorem execCstEnc_cases (s : State) :
    (6 < s.inLid.toNat ∧ exec .cstEnc s = .next (s.afterError 3)) ∨
    (s.inLid.toNat ≤ 6 ∧ exec .cstEnc s = .next (driveBytes [s.inLid] s.afterSuccess)) := by
  by_cases h : s.inLid.toNat ≤ 6
  · exact .inr ⟨h, execCstEnc_of_mode h⟩
  · exact .inl ⟨Nat.lt_of_not_le h, execCstEnc_of_not_mode (Nat.lt_of_not_le h)⟩

/-! ### The error an operation reports -/

/-- The level on `err` after operation `i` answers, as a function of its operand: the conditions of 60_exceptions.md R272
to R274, in ENCODE the brightness first (`ERR_PRIORITY`, log entry 8). -/
def errAfter (i : Instr) (s : State) : ErrCode :=
  match i with
  | .decode => if s.inLen = 70 then 0 else 1
  | .encode =>
      if 100 < s.inSnap.brightness.toNat then 2 else if allFaultLabels params s.inSnap.faults then 0 else 3
  | .fltDec => if s.inLen = 4 then 0 else 1
  | .fltEnc => if allFaultLabels params s.inSnap.faults then 0 else 3
  | .stsDec => 0
  | .stsEnc => if 100 < s.inSnap.brightness.toNat then 2 else 0
  | .cstDec => 0
  | .cstEnc => if 6 < s.inLid.toNat then 3 else 0

/-- Every answer's `err` is decided by the operand. -/
theorem err_eq_errAfter {i : Instr} {s t : State} (hnext : exec i s = .next t) : t.err = errAfter i s := by
  cases i with
  | decode =>
    obtain ⟨hlen, hexec⟩ | ⟨hlen, hexec⟩ := execDecode_cases s
    all_goals obtain rfl := next_unique hnext hexec
    · exact (if_neg hlen).symm
    · exact (if_pos hlen).symm
  | encode =>
    obtain ⟨-, hexec⟩ | ⟨-, hbright, hexec⟩ | ⟨-, hbright, hfaults, hexec⟩ |
      ⟨⟨-, hbright, hfaults⟩, _, _, -, hexec, -⟩ := execEncode_cases s
    · rw [hexec] at hnext
      cases hnext
    all_goals obtain rfl := next_unique hnext hexec
    · exact (if_pos hbright).symm
    · rw [errAfter, if_neg (Nat.not_lt.mpr hbright), if_neg (mt (allFaultLabels_iff _ _).mp hfaults), afterError_err]
    · rw [errAfter, if_neg (Nat.not_lt.mpr hbright), if_pos ((allFaultLabels_iff _ _).mpr hfaults), afterSuccess_err]
  | fltDec =>
    obtain ⟨hlen, hexec⟩ | ⟨hlen, hexec⟩ := execFltDec_cases s
    all_goals obtain rfl := next_unique hnext hexec
    · exact (if_neg hlen).symm
    · exact (if_pos hlen).symm
  | fltEnc =>
    obtain ⟨hfaults, hexec⟩ | ⟨hfaults, hexec⟩ := execFltEnc_cases s
    all_goals obtain rfl := next_unique hnext hexec
    · exact (if_neg (mt (allFaultLabels_iff _ _).mp hfaults)).symm
    · exact (if_pos ((allFaultLabels_iff _ _).mpr hfaults)).symm
  | stsDec =>
    obtain rfl := next_unique hnext (execStsDec_eq s)
    rfl
  | stsEnc =>
    obtain ⟨hbright, hexec⟩ | ⟨hbright, _, hexec, -⟩ := execStsEnc_cases s
    all_goals obtain rfl := next_unique hnext hexec
    · exact (if_pos hbright).symm
    · exact (if_neg (Nat.not_lt.mpr hbright)).symm
  | cstDec =>
    obtain rfl := next_unique hnext (execCstDec_eq s)
    rfl
  | cstEnc =>
    obtain ⟨hlid, hexec⟩ | ⟨hlid, hexec⟩ := execCstEnc_cases s
    all_goals obtain rfl := next_unique hnext hexec
    · exact (if_pos hlid).symm
    · exact (if_neg (Nat.not_lt.mpr hlid)).symm

/-- The three codes that are driven on an error, each by its own operations. -/
theorem errAfter_cases (i : Instr) (s : State) : errAfter i s = 0 ∨
    (errAfter i s = 1 ∧ (i = .decode ∨ i = .fltDec)) ∨ (errAfter i s = 2 ∧ (i = .encode ∨ i = .stsEnc)) ∨
    (errAfter i s = 3 ∧ (i = .encode ∨ i = .fltEnc ∨ i = .cstEnc)) := by
  cases i with
  | stsDec | cstDec => exact .inl rfl
  | decode | encode | fltDec | fltEnc | stsEnc | cstEnc =>
    simp only [errAfter]
    split_ifs <;> decide

/-! ### The obligations on `err` -/

/-- Settles O5: `err` is `errAfter`, each of whose codes stands in the rows of its own operations. -/
theorem eachOperationDrivesOnlyItsOwnErrorCodes : Obligations.EachOperationDrivesOnlyItsOwnErrorCodes :=
  fun i s _ hnext => err_eq_errAfter hnext ▸ errAfter_cases i s

/-- Settles O8: the two operations with a length compare it, and no other has the code 1. -/
theorem lengthErrorExactlyOnAWrongLength : Obligations.LengthErrorExactlyOnAWrongLength := by
  refine ⟨fun s t hnext => ?_, fun s t hnext => ?_, fun i s t hdecode hfltDec hnext herr => ?_⟩
  · rw [err_eq_errAfter hnext, ne_eq, ← inLen_eq_iff (by decide)]
    simp [errAfter]
  · rw [err_eq_errAfter hnext, ne_eq, ← inLen_eq_iff (by decide)]
    simp [errAfter]
  · have own_codes := eachOperationDrivesOnlyItsOwnErrorCodes i s t hnext
    simp [herr, hdecode, hfltDec] at own_codes

/-- Settles O9: the two operations that take a brightness check it first, and no other has the code 2. -/
theorem rangeErrorExactlyOnBrightness : Obligations.RangeErrorExactlyOnBrightness := by
  refine ⟨params_encOverflow, params_errPriority, fun s t hnext => ?_, fun s t hnext => ?_,
    fun i s t hencode hstsEnc hnext herr => ?_⟩
  · rw [err_eq_errAfter hnext, errAfter]
    split_ifs with hbright <;> simp [hbright]
  · rw [err_eq_errAfter hnext]
    simp [errAfter]
  · have own_codes := eachOperationDrivesOnlyItsOwnErrorCodes i s t hnext
    simp [herr, hencode, hstsEnc] at own_codes

/-- Settles O10: the three operations that take labels check them, ENCODE after the brightness, and no other has the
code 3. -/
theorem faultNameErrorExactlyOnAnUnknownLabel : Obligations.FaultNameErrorExactlyOnAnUnknownLabel := by
  refine ⟨params_encOverflow, params_errPriority, fun s t hnext => ?_, fun s t hnext => ?_, fun s t hnext => ?_,
    fun i s t hencode hfltEnc hcstEnc hnext herr => ?_⟩
  · rw [err_eq_errAfter hnext, ← allFaultLabels_iff, ← Nat.not_lt]
    by_cases hbright : 100 < s.inSnap.brightness.toNat <;> simp [errAfter, hbright]
  · rw [err_eq_errAfter hnext, ← allFaultLabels_iff]
    simp [errAfter]
  · rw [err_eq_errAfter hnext]
    simp [errAfter]
  · have own_codes := eachOperationDrivesOnlyItsOwnErrorCodes i s t hnext
    simp [herr, hencode, hfltEnc, hcstEnc] at own_codes

/-! ### What an answer leaves on the outputs -/

theorem labelOfChargingState_toNat_eq_min (code : Byte) :
    (labelOfChargingState (chargingStateOfCode code)).toNat = min code.toNat 7 := by
  rw [labelOfChargingState_toNat]
  split <;> omega

/-- A packed brightness stands in the low seven bits. -/
theorem packed_mod_eq {on : Bool} {bright : Nat} (h : bright ≤ 100) :
    ((if on then 128 else 0) + bright) % 128 = bright := by
  split <;> omega

theorem isFaultBit_of_testBit {w : Nat} {F : LabelSet}
    (named : ∀ i, w.testBit i = (decide (IsFaultBit params i) && F.getLsbD i)) :
    ∀ i, w.testBit i = true → IsFaultBit params i := by
  intro i hi
  rw [named, Bool.and_eq_true, decide_eq_true_iff] at hi
  exact hi.1

section OutputsLegal

variable {s t : State}

theorem outputsLegal_of_execDecode (hop : decodeOp t.op = .decode) (hnext : exec .decode s = .next t) :
    t.OutputsLegal := by
  rw [State.OutputsLegal, hop]
  obtain ⟨-, hexec⟩ | ⟨-, hexec⟩ := execDecode_cases s
  all_goals obtain rfl := next_unique hnext hexec
  · exact .inl rfl
  · exact .inr ⟨rfl, inDecoderImage_decodedLanes s.inBytes, labelOfChargingState_toNat_eq_min _⟩

theorem outputsLegal_of_execEncode (hop : decodeOp t.op = .encode) (hnext : exec .encode s = .next t) :
    t.OutputsLegal := by
  rw [State.OutputsLegal, hop]
  obtain ⟨-, hexec⟩ | ⟨-, -, hexec⟩ | ⟨-, -, -, hexec⟩ | ⟨hencodable, -⟩ := execEncode_cases s
  · rw [hexec] at hnext
    cases hnext
  · obtain rfl := next_unique hnext hexec
    exact .inl rfl
  · obtain rfl := next_unique hnext hexec
    exact .inr (.inl rfl)
  · obtain ⟨u, hu, herr, reserved, status, -, named⟩ := encodeWritesReservedStatusStateAndFaults s hencodable
    obtain ⟨v, hv, -, energies⟩ := encodeWritesTheEnergyFields s hencodable
    obtain rfl := next_unique hnext hu
    obtain rfl := next_unique hnext hv
    obtain ⟨generated, consumed, cumGenerated, cumConsumed⟩ := energies
    obtain ⟨-, hbright, -⟩ := hencodable
    refine .inr (.inr ⟨herr, reserved, ?_, isFaultBit_of_testBit named, ?_, ?_, ?_, ?_⟩)
    · rwa [status, packed_mod_eq hbright]
    all_goals omega

theorem outputsLegal_of_execFltDec (hop : decodeOp t.op = .fltDec) (hnext : exec .fltDec s = .next t) :
    t.OutputsLegal := by
  rw [State.OutputsLegal, hop]
  obtain ⟨-, hexec⟩ | ⟨-, hexec⟩ := execFltDec_cases s
  all_goals obtain rfl := next_unique hnext hexec
  · exact .inl rfl
  · exact .inr ⟨rfl, onlyFaultLabels_faultsOfWord _⟩

theorem outputsLegal_of_execFltEnc (hop : decodeOp t.op = .fltEnc) (hnext : exec .fltEnc s = .next t) :
    t.OutputsLegal := by
  rw [State.OutputsLegal, hop]
  obtain ⟨-, hexec⟩ | ⟨hfaults, -⟩ := execFltEnc_cases s
  · obtain rfl := next_unique hnext hexec
    exact .inl rfl
  · obtain ⟨out, hexec, named, -⟩ := fltEncSetsTheNamedBits s hfaults
    obtain rfl := next_unique hnext hexec
    exact .inr ⟨rfl, isFaultBit_of_testBit named⟩

theorem outputsLegal_of_execStsDec (hop : decodeOp t.op = .stsDec) (hnext : exec .stsDec s = .next t) :
    t.OutputsLegal := by
  rw [State.OutputsLegal, hop]
  obtain rfl := next_unique hnext (execStsDec_eq s)
  refine ⟨rfl, ?_⟩
  rw [driveStatus_brightness, toNat_and_low_seven]
  omega

theorem outputsLegal_of_execStsEnc (hop : decodeOp t.op = .stsEnc) (hnext : exec .stsEnc s = .next t) :
    t.OutputsLegal := by
  rw [State.OutputsLegal, hop]
  obtain ⟨-, hexec⟩ | ⟨hbright, b, hexec, hpacked⟩ := execStsEnc_cases s
  all_goals obtain rfl := next_unique hnext hexec
  · exact .inl rfl
  · refine .inr ⟨rfl, ?_⟩
    rwa [driveBytes_outBytes, lane_zero_driveLanes_singleton, hpacked, packed_mod_eq hbright]

theorem outputsLegal_of_execCstDec (hop : decodeOp t.op = .cstDec) (hnext : exec .cstDec s = .next t) :
    t.OutputsLegal := by
  rw [State.OutputsLegal, hop]
  obtain rfl := next_unique hnext (execCstDec_eq s)
  exact ⟨rfl, labelOfChargingState_toNat_eq_min _⟩

theorem outputsLegal_of_execCstEnc (hop : decodeOp t.op = .cstEnc) (hnext : exec .cstEnc s = .next t) :
    t.OutputsLegal := by
  rw [State.OutputsLegal, hop]
  obtain ⟨-, hexec⟩ | ⟨hlid, hexec⟩ := execCstEnc_cases s
  all_goals obtain rfl := next_unique hnext hexec
  · exact .inl rfl
  · refine .inr ⟨rfl, ?_⟩
    rwa [driveBytes_outBytes, lane_zero_driveLanes_singleton]

/-- Every answer of the operation on `op` is legal, whatever the outputs were before. -/
theorem outputsLegal_of_exec {i : Instr} (hop : decodeOp t.op = i) (hnext : exec i s = .next t) : t.OutputsLegal := by
  cases i with
  | decode => exact outputsLegal_of_execDecode hop hnext
  | encode => exact outputsLegal_of_execEncode hop hnext
  | fltDec => exact outputsLegal_of_execFltDec hop hnext
  | fltEnc => exact outputsLegal_of_execFltEnc hop hnext
  | stsDec => exact outputsLegal_of_execStsDec hop hnext
  | stsEnc => exact outputsLegal_of_execStsEnc hop hnext
  | cstDec => exact outputsLegal_of_execCstDec hop hnext
  | cstEnc => exact outputsLegal_of_execCstEnc hop hnext

end OutputsLegal

/-! ### The invariant -/

/-- Settles O11: a step leaves the select as it is, so the outputs are legal for the operation it evaluated; the legality
of the outputs before, which no operation reads, is not needed. -/
theorem everyStepLeavesLegalOutputs : Obligations.EveryStepLeavesLegalOutputs := by
  refine ⟨params_encOverflow, fun s t _ hnext => ?_⟩
  obtain ⟨⟨same_op, -⟩, -⟩ := noOperationWritesAnInputPort _ s t hnext
  exact outputsLegal_of_exec (congrArg decodeOp same_op.symm) hnext

end Sys2Proof.Machine
end

section
/-! PROOFS. The levels at reset (70_reset_and_hazards.md R300): an all-zero select is DECODE, and an empty operand is not a
register block, so `err` already shows the LengthError that a step drives. -/

namespace Sys2Proof.Machine

theorem fetchInstr_reset : fetchInstr State.reset = .decode := rfl

/-- The first step drives the error of an operand that is not 70 bytes long. -/
theorem step_reset : step State.reset = .next (State.reset.afterError 1) := by
  rw [step, fetchInstr_reset]
  exact execDecode_of_not_full _ (by decide)

/-- Settles O12: the select at reset is DECODE's, for which the LengthError on `err` is legal whatever stands on the other
outputs. -/
theorem resetOutputsAreLegal : Obligations.ResetOutputsAreLegal := by
  have select_is_decode : decodeOp State.reset.op = .decode := fetchInstr_reset
  rw [Obligations.ResetOutputsAreLegal, State.OutputsLegal, select_is_decode]
  exact .inl rfl

/-- Settles O13: the step answers the LengthError, which is the level of `err` at reset. -/
theorem errIsAlreadyTheFunctionOfTheInputsAtReset : Obligations.ErrIsAlreadyTheFunctionOfTheInputsAtReset :=
  ⟨_, step_reset, afterError_err _ _⟩

end Sys2Proof.Machine
end
